-- ==== Sys2Proof/Word.lean ====
section
/-! DEFINITION. The word types of the block: a byte (R6) and a 16-bit value (R15's `A_WORDS`, `A_COUNT`, `A_MV`). -/

namespace Sys2Proof

/-- "A byte is an unsigned 8-bit integer, 0 to 255" (R6). -/
abbrev Byte := BitVec 8

/-- A "u16" (R6): an ASIC word operand, a count, a number of millivolts. -/
abbrev Half := BitVec 16

end Sys2Proof
end

