-- ==== Sys2Proof/Syntax.lean ====
section
/-! DEFINITION. The rows of spec/opcode_table.json: the 20 host commands (R96), each with the operands its rule
lists, and the 12 byte-list layouts on the wire (R100). -/

namespace Sys2Proof

/-- One constructor per row of the opcode table. An `Option` operand is one the rule writes in square
brackets: `none` means the host left it out (R97). -/
inductive Instr where
  /-- FC_BUILD (R111) -/
  | fcBuild (page command txid : Byte) (payload : List Byte)
  /-- FC_PARSE (R112) -/
  | fcParse (bytes : List Byte) (expTxid expLen : Byte)
  /-- FC_XACT (R116) -/
  | fcXact (page command txid : Byte) (payload : List Byte) (expLen : Byte) (flush : Bool)
  /-- I2C_WRB (R130) -/
  | i2cWrb (page addr reg value : Byte) (txid : Option Byte)
  /-- I2C_RDB (R131) -/
  | i2cRdb (page addr : Byte) (reg txid : Option Byte)
  /-- I2C_WRS (R134) -/
  | i2cWrs (page addr reg : Byte) (bytes : List Byte)
  /-- I2C_RDS (R135) -/
  | i2cRds (page addr : Byte) (reg : Option Byte) (count : Half)
  /-- PSU_BUILD (R151) -/
  | psuBuild (opcode : Byte) (fields : List Byte)
  /-- PSU_SEND (R152) -/
  | psuSend (psuAddr psuReg : Byte) (packet : List Byte)
  /-- PSU_RECV (R153) -/
  | psuRecv (psuAddr : Byte) (count : Option Half)
  /-- PSU_CMD (R155) -/
  | psuCmd (opcode : Byte) (fields : List Byte) (count : Option Half)
  /-- PSU_GET_HWVER (R156) -/
  | psuGetHwver
  /-- PSU_CFG_WDT (R157) -/
  | psuCfgWdt (enableFlag : Byte)
  /-- PSU_SET_V (R158) -/
  | psuSetV (hexVoltage : Byte)
  /-- PSU_GET_V (R159) -/
  | psuGetV
  /-- PSU_MEAS_V (R160) -/
  | psuMeasV
  /-- VOLT_ENC (R164) -/
  | voltEnc (mv : Half)
  /-- VOLT_DEC (R165) -/
  | voltDec (h : Byte)
  /-- AW_ENC (R181) -/
  | awEnc (words : List Half)
  /-- AW_DEC (R183) -/
  | awDec (bytes : List Byte) (expCount : Option Half)
  /-- FRAME: a request frame, any page and command (R70) -/
  | frame (length txid page command : Byte) (payload : List Byte)
  /-- FRAME_I2C_WRITE: command byte 0x20 (R80) -/
  | frameI2cWrite (length txid page : Byte) (payload : List Byte)
  /-- FRAME_I2C_READ: command byte 0x30 (R81) -/
  | frameI2cRead (length txid page : Byte) (payload : List Byte)
  /-- FRAME_I2C_READWRITE: command byte 0x40 (R81) -/
  | frameI2cReadwrite (length txid page : Byte) (payload : List Byte)
  /-- RESPONSE (R76) -/
  | response (byte0 byte1 txid : Byte) (payload : List Byte)
  /-- PSU_PACKET: any opcode (R85) -/
  | psuPacket (length opcode : Byte) (fields : List Byte) (checksumLo checksumHi : Byte)
  /-- PSU_PKT_GET_HWVER (R88, R156) -/
  | psuPktGetHwver
  /-- PSU_PKT_CFG_WDT (R88, R157) -/
  | psuPktCfgWdt (enableFlag checksumLo checksumHi : Byte)
  /-- PSU_PKT_SET_V (R88, R158) -/
  | psuPktSetV (hexVoltage checksumLo checksumHi : Byte)
  /-- PSU_PKT_GET_V (R88, R159) -/
  | psuPktGetV
  /-- PSU_PKT_MEAS_V (R88, R160) -/
  | psuPktMeasV
  /-- ASIC_PAIR: byte0 and bit 0 of byte1, whose other bits are zero (R92) -/
  | asicPair (byte0 : Byte) (bit8 : Bool)
  deriving DecidableEq, Repr

/-- Where a row's bytes stand: on the CMD port, on the outbound stream, on the inbound stream, or in a
list of ASIC word pairs. "`RESPONSE` ... is told apart by direction, not by content" (R100). -/
inductive Channel where
  | cmd | outbound | inbound | asic
  deriving DecidableEq, Repr

/-- The channel of each row. -/
def Instr.channel : Instr → Channel
  | .frame .. | .frameI2cWrite .. | .frameI2cRead .. | .frameI2cReadwrite .. => .outbound
  | .psuPacket .. | .psuPktGetHwver | .psuPktCfgWdt .. | .psuPktSetV .. | .psuPktGetV | .psuPktMeasV => .outbound
  | .response .. => .inbound
  | .asicPair .. => .asic
  | _ => .cmd

end Sys2Proof
end

