-- ==== Sys2Proof/WellFormed.lean ====
section
/-! DEFINITION. Which terms of `Instr` are records the CMD port carries or byte lists the wire rows describe.
A command whose operands are out of range but presentable (a payload of 251 bytes, `expLen` 251) is
well-formed: the block answers it with `InvalidArgument` (R194). -/

namespace Sys2Proof

/-- The sum of R87 over the length byte, the opcode and the fields. -/
def packetSum (length opcode : Byte) (fields : List Byte) : Nat :=
  (length.toNat + opcode.toNat + (fields.map (·.toNat)).sum) % 65536

/-- The two checksum bytes are the little-endian form of `n` (R87). -/
def checksumIs (lo hi : Byte) (n : Nat) : Bool := decide (lo.toNat + 256 * hi.toNat = n)

/-- `length` counts from the transaction id to the end of the frame (R71), within the bound of R74. -/
def frameLengthIs (length : Byte) (payload : List Byte) : Bool :=
  decide (length.toNat = payload.length + 4) && decide (payload.length ≤ 250)

/-- A general row is used only where no special row matches (log 2; R100: "a byte list that matches a
special row also matches its general row"). -/
def plainCommand (command : Byte) : Bool :=
  !(command == 0x20 || command == 0x30 || command == 0x40)

/-- No row of format PSU_PACKET_OP matches the packet (R88, R100). -/
def plainPacket (length opcode : Byte) (fields : List Byte) (lo hi : Byte) : Bool :=
  !((length == 0x04 && lo == opcode + 4 && hi == 0 && (opcode == 0x02 || opcode == 0x03 || opcode == 0x04)) ||
    (length == 0x06 && (opcode == 0x81 || opcode == 0x83) && fields.getD 1 1 == 0))

/-- Well-formedness, with `MAX_WORDS` of the configuration. -/
def Instr.wf (maxWords : Nat) : Instr → Bool
  | .fcBuild .. => true
  | .fcParse .. => true
  | .fcXact .. => true
  | .i2cWrb .. => true
  | .i2cRdb .. => true
  | .i2cWrs .. => true
  | .i2cRds .. => true
  | .psuBuild .. => true
  | .psuSend .. => true
  | .psuRecv .. => true
  | .psuCmd .. => true
  | .psuGetHwver => true
  | .psuCfgWdt _ => true
  | .psuSetV _ => true
  | .psuGetV => true
  | .psuMeasV => true
  | .voltEnc _ => true
  | .voltDec _ => true
  -- R181, R183: a list longer than MAX_WORDS words "cannot be presented on the port"
  | .awEnc w => w.isEmpty || decide (w.length ≤ maxWords)
  | .awDec b _ => b.isEmpty || decide (b.length ≤ 2 * maxWords)
  | .frame l _ _ c p => frameLengthIs l p && plainCommand c
  | .frameI2cWrite l _ _ p => frameLengthIs l p
  | .frameI2cRead l _ _ p => frameLengthIs l p
  | .frameI2cReadwrite l _ _ p => frameLengthIs l p
  | .response _ _ _ p => decide (p.length ≤ 250)
  | .psuPacket l o f lo hi =>
      decide (l.toNat = f.length + 4) && checksumIs lo hi (packetSum l o f) && plainPacket l o f lo hi
  | .psuPktGetHwver => true
  | .psuPktCfgWdt e lo hi => checksumIs lo hi (packetSum 0x06 0x81 [e, 0])
  | .psuPktSetV v lo hi => checksumIs lo hi (packetSum 0x06 0x83 [v, 0])
  | .psuPktGetV => true
  | .psuPktMeasV => true
  | .asicPair .. => true

end Sys2Proof
end

