-- ==== Sys2Proof/Decode.lean ====
section
/-! DEFINITION. Decoding of byte lists into rows of the opcode table, and the encoder.
A host command's `op` byte is R96's; how the operands follow it as bytes is the model's own (log 11):
in the order of the command's rule, 8-bit operands as one byte, 16-bit operands low byte first (R51), a
1-bit operand and the "given" mark of an optional operand as one byte 0 or 1, a list as its length, of any
size, and its elements. Wire rows are laid out as R70, R76, R85 and R92 say. -/

namespace Sys2Proof

/-- Why a byte list is no row. -/
inductive DecodeError where
  /-- No byte at all. -/
  | empty
  /-- The first byte is no `op` code of R96. The block accepts it and answers `InvalidArgument` (R194). -/
  | illegalOp (op : Byte)
  /-- The bytes after a legal `op` are not its operands. -/
  | malformed (op : Byte)
  /-- No wire row of the channel matches (R100). -/
  | noRow
  deriving DecidableEq, Repr

/-- The decoder's answer: an instruction and the bytes after it, or a named rejection. -/
inductive Decoded where
  | ok (i : Instr) (rest : List Byte)
  | error (e : DecodeError)
  deriving DecidableEq, Repr

/-! ## Operand readers -/

/-! Each answers the operand and the bytes after it. -/

def take8 : List Byte → Option (Byte × List Byte)
  | b :: r => some (b, r)
  | [] => none

/-- A 16-bit operand, low byte first (R51). -/
def take16 : List Byte → Option (Half × List Byte)
  | lo :: hi :: r => some (hi ++ lo, r)
  | _ => none

/-- A 1-bit operand. -/
def takeBit : List Byte → Option (Bool × List Byte)
  | b :: r => if b = 0 then some (false, r) else if b = 1 then some (true, r) else none
  | [] => none

/-- An optional 8-bit operand: its "given" bit, then its byte. -/
def takeOpt8 (bs : List Byte) : Option (Option Byte × List Byte) :=
  (takeBit bs).bind fun v => (take8 v.2).map fun b => (if v.1 then some b.1 else none, b.2)

/-- An optional 16-bit operand. -/
def takeOpt16 (bs : List Byte) : Option (Option Half × List Byte) :=
  (takeBit bs).bind fun v => (take16 v.2).map fun b => (if v.1 then some b.1 else none, b.2)

/-- `n` bytes, if there are so many. -/
def takeExact : Nat → List Byte → Option (List Byte × List Byte)
  | 0, bs => some ([], bs)
  | _ + 1, [] => none
  | n + 1, b :: bs => (takeExact n bs).map fun t => (b :: t.1, t.2)

/-- The length of a list, which may be any number: halves `FF FF`, each counting 65535, and then one other half, low
byte first, for what is left. -/
def takeCount : List Byte → Option (Nat × List Byte)
  | lo :: hi :: r =>
    if lo = 0xFF ∧ hi = 0xFF then (takeCount r).map fun t => (t.1 + 65535, t.2)
    else some (lo.toNat + 256 * hi.toNat, r)
  | _ => none

/-- A byte list: its length, then its bytes. -/
def takeBytes (bs : List Byte) : Option (List Byte × List Byte) :=
  (takeCount bs).bind fun n => takeExact n.1 n.2

/-- `n` 16-bit elements. -/
def takeHalves : Nat → List Byte → Option (List Half × List Byte)
  | 0, bs => some ([], bs)
  | n + 1, bs => (take16 bs).bind fun w => (takeHalves n w.2).map fun t => (w.1 :: t.1, t.2)

/-- A word list: its length in words, then its words. -/
def takeWords (bs : List Byte) : Option (List Half × List Byte) :=
  (takeCount bs).bind fun n => takeHalves n.1 n.2

/-! ## Host commands -/

/-- The operands of the command with code `op`, or `none` for a code R96 does not list. -/
def operandReader (op : Nat) : Option (List Byte → Option (Instr × List Byte)) :=
  match op with
  | 0x01 => some fun bs => do
      let (page, bs) ← take8 bs; let (command, bs) ← take8 bs; let (txid, bs) ← take8 bs
      let (payload, bs) ← takeBytes bs
      return (.fcBuild page command txid payload, bs)
  | 0x02 => some fun bs => do
      let (bytes, bs) ← takeBytes bs; let (expTxid, bs) ← take8 bs; let (expLen, bs) ← take8 bs
      return (.fcParse bytes expTxid expLen, bs)
  | 0x03 => some fun bs => do
      let (page, bs) ← take8 bs; let (command, bs) ← take8 bs; let (txid, bs) ← take8 bs
      let (payload, bs) ← takeBytes bs; let (expLen, bs) ← take8 bs; let (flush, bs) ← takeBit bs
      return (.fcXact page command txid payload expLen flush, bs)
  | 0x10 => some fun bs => do
      let (page, bs) ← take8 bs; let (addr, bs) ← take8 bs; let (reg, bs) ← take8 bs
      let (value, bs) ← take8 bs; let (txid, bs) ← takeOpt8 bs
      return (.i2cWrb page addr reg value txid, bs)
  | 0x11 => some fun bs => do
      let (page, bs) ← take8 bs; let (addr, bs) ← take8 bs; let (reg, bs) ← takeOpt8 bs
      let (txid, bs) ← takeOpt8 bs
      return (.i2cRdb page addr reg txid, bs)
  | 0x12 => some fun bs => do
      let (page, bs) ← take8 bs; let (addr, bs) ← take8 bs; let (reg, bs) ← take8 bs
      let (bytes, bs) ← takeBytes bs
      return (.i2cWrs page addr reg bytes, bs)
  | 0x13 => some fun bs => do
      let (page, bs) ← take8 bs; let (addr, bs) ← take8 bs; let (reg, bs) ← takeOpt8 bs
      let (count, bs) ← take16 bs
      return (.i2cRds page addr reg count, bs)
  | 0x20 => some fun bs => do
      let (opcode, bs) ← take8 bs; let (fields, bs) ← takeBytes bs
      return (.psuBuild opcode fields, bs)
  | 0x21 => some fun bs => do
      let (psuAddr, bs) ← take8 bs; let (psuReg, bs) ← take8 bs; let (packet, bs) ← takeBytes bs
      return (.psuSend psuAddr psuReg packet, bs)
  | 0x22 => some fun bs => do
      let (psuAddr, bs) ← take8 bs; let (count, bs) ← takeOpt16 bs
      return (.psuRecv psuAddr count, bs)
  | 0x23 => some fun bs => do
      let (opcode, bs) ← take8 bs; let (fields, bs) ← takeBytes bs; let (count, bs) ← takeOpt16 bs
      return (.psuCmd opcode fields count, bs)
  | 0x24 => some fun bs => some (.psuGetHwver, bs)
  | 0x25 => some fun bs => do let (e, bs) ← take8 bs; return (.psuCfgWdt e, bs)
  | 0x26 => some fun bs => do let (h, bs) ← take8 bs; return (.psuSetV h, bs)
  | 0x27 => some fun bs => some (.psuGetV, bs)
  | 0x28 => some fun bs => some (.psuMeasV, bs)
  | 0x29 => some fun bs => do let (mv, bs) ← take16 bs; return (.voltEnc mv, bs)
  | 0x2A => some fun bs => do let (h, bs) ← take8 bs; return (.voltDec h, bs)
  | 0x30 => some fun bs => do let (words, bs) ← takeWords bs; return (.awEnc words, bs)
  | 0x31 => some fun bs => do
      let (bytes, bs) ← takeBytes bs; let (expCount, bs) ← takeOpt16 bs
      return (.awDec bytes expCount, bs)
  | _ => none

/-- A record on the CMD port (R11, R96). -/
def decodeCommand : List Byte → Decoded
  | [] => .error .empty
  | op :: bs =>
    match operandReader op.toNat with
    | none => .error (.illegalOp op)
    | some read =>
      match read bs with
      | some (i, rest) => .ok i rest
      | none => .error (.malformed op)

/-! ## Wire rows -/

/-- The row of a frame: the special row of its command byte where there is one (R79, R100). -/
def frameRow (length txid page command : Byte) (payload : List Byte) : Instr :=
  if command = 0x20 then .frameI2cWrite length txid page payload
  else if command = 0x30 then .frameI2cRead length txid page payload
  else if command = 0x40 then .frameI2cReadwrite length txid page payload
  else .frame length txid page command payload

/-- The row of a PSU packet: the special row where one matches (R88, R100). -/
def packetRow (length opcode : Byte) (fields : List Byte) (lo hi : Byte) : Instr :=
  if length = 0x04 ∧ opcode = 0x02 ∧ lo = 0x06 ∧ hi = 0 then .psuPktGetHwver
  else if length = 0x04 ∧ opcode = 0x03 ∧ lo = 0x07 ∧ hi = 0 then .psuPktGetV
  else if length = 0x04 ∧ opcode = 0x04 ∧ lo = 0x08 ∧ hi = 0 then .psuPktMeasV
  else if length = 0x06 ∧ opcode = 0x81 ∧ fields.getD 1 1 = 0 then .psuPktCfgWdt (fields.getD 0 0) lo hi
  else if length = 0x06 ∧ opcode = 0x83 ∧ fields.getD 1 1 = 0 then .psuPktSetV (fields.getD 0 0) lo hi
  else .psuPacket length opcode fields lo hi

/-- The bytes after a packet's opcode: `length - 4` fields and two checksum bytes (R85, R86). -/
def decodePacketTail (length opcode : Byte) (bs : List Byte) : Decoded :=
  match takeExact (length.toNat - 4) bs with
  | some (fields, lo :: hi :: rest) => .ok (packetRow length opcode fields lo hi) rest
  | _ => .error .noRow

/-- The bytes after a frame's command byte: `length - 4` payload bytes (R71). -/
def decodeFrameTail (length txid page command : Byte) (bs : List Byte) : Decoded :=
  match takeExact (length.toNat - 4) bs with
  | some (payload, rest) => .ok (frameRow length txid page command payload) rest
  | none => .error .noRow

/-- What the block sends: a PSU packet begins `55 AA` (R85), a frame has zero bytes at offsets 1 and 3
(R70, R72); no list is both. -/
def decodeOutbound : List Byte → Decoded
  | b0 :: b1 :: b2 :: b3 :: bs =>
    if b0 = 0x55 ∧ b1 = 0xAA then decodePacketTail b2 b3 bs
    else if b1 = 0 ∧ b3 = 0 then
      match bs with
      | b4 :: b5 :: bs => decodeFrameTail b0 b2 b4 b5 bs
      | _ => .error .noRow
    else .error .noRow
  | _ => .error .noRow

/-- A response: three header bytes, and the payload is the rest (R76, R78: it has no length field). -/
def decodeInbound : List Byte → Decoded
  | b0 :: b1 :: t :: payload => .ok (.response b0 b1 t payload) []
  | _ => .error .noRow

/-- An ASIC pair as AW_ENC writes it: bits 1 to 7 of the second byte are zero (R92, R93). -/
def decodeAsic : List Byte → Decoded
  | b0 :: b1 :: rest =>
    if b1 = 0 then .ok (.asicPair b0 false) rest
    else if b1 = 1 then .ok (.asicPair b0 true) rest
    else .error .noRow
  | _ => .error .noRow

/-- The decoder, total on any bytes. -/
def decode : Channel → List Byte → Decoded
  | .cmd => decodeCommand
  | .outbound => decodeOutbound
  | .inbound => decodeInbound
  | .asic => decodeAsic

/-! ## Encoder -/

/-- 16 bits, low byte first (R51). -/
def put16 (w : Half) : List Byte := [w.setWidth 8, (w >>> 8).setWidth 8]

def putBit (b : Bool) : List Byte := [if b then 1 else 0]

def putOpt8 : Option Byte → List Byte
  | some b => [1, b]
  | none => [0, 0]

def putOpt16 : Option Half → List Byte
  | some w => 1 :: put16 w
  | none => [0, 0, 0]

/-- `q` halves `FF FF`, then the half `r`. -/
def putCountAs : Nat → Nat → List Byte
  | 0, r => put16 (BitVec.ofNat 16 r)
  | q + 1, r => 0xFF :: 0xFF :: putCountAs q r

/-- The length of a list as `takeCount` reads it. -/
def putCount (n : Nat) : List Byte := putCountAs (n / 65535) (n % 65535)

def putBytes (l : List Byte) : List Byte := putCount l.length ++ l

def putHalves : List Half → List Byte
  | [] => []
  | w :: t => put16 w ++ putHalves t

def putWords (l : List Half) : List Byte := putCount l.length ++ putHalves l

/-- The layout of R70. -/
def frameBytes (length txid page command : Byte) (payload : List Byte) : List Byte :=
  [length, 0, txid, 0, page, command] ++ payload

/-- The layout of R85. -/
def packetBytes (length opcode : Byte) (fields : List Byte) (lo hi : Byte) : List Byte :=
  [0x55, 0xAA, length, opcode] ++ fields ++ [lo, hi]

/-- The bytes of a row on its channel. -/
def encode : Instr → List Byte
  | .fcBuild page command txid payload => [0x01, page, command, txid] ++ putBytes payload
  | .fcParse bytes expTxid expLen => 0x02 :: putBytes bytes ++ [expTxid, expLen]
  | .fcXact page command txid payload expLen flush =>
      [0x03, page, command, txid] ++ putBytes payload ++ [expLen] ++ putBit flush
  | .i2cWrb page addr reg value txid => [0x10, page, addr, reg, value] ++ putOpt8 txid
  | .i2cRdb page addr reg txid => [0x11, page, addr] ++ putOpt8 reg ++ putOpt8 txid
  | .i2cWrs page addr reg bytes => [0x12, page, addr, reg] ++ putBytes bytes
  | .i2cRds page addr reg count => [0x13, page, addr] ++ putOpt8 reg ++ put16 count
  | .psuBuild opcode fields => [0x20, opcode] ++ putBytes fields
  | .psuSend psuAddr psuReg packet => [0x21, psuAddr, psuReg] ++ putBytes packet
  | .psuRecv psuAddr count => [0x22, psuAddr] ++ putOpt16 count
  | .psuCmd opcode fields count => [0x23, opcode] ++ putBytes fields ++ putOpt16 count
  | .psuGetHwver => [0x24]
  | .psuCfgWdt enableFlag => [0x25, enableFlag]
  | .psuSetV hexVoltage => [0x26, hexVoltage]
  | .psuGetV => [0x27]
  | .psuMeasV => [0x28]
  | .voltEnc mv => 0x29 :: put16 mv
  | .voltDec h => [0x2A, h]
  | .awEnc words => 0x30 :: putWords words
  | .awDec bytes expCount => 0x31 :: putBytes bytes ++ putOpt16 expCount
  | .frame l t p c payload => frameBytes l t p c payload
  | .frameI2cWrite l t p payload => frameBytes l t p 0x20 payload
  | .frameI2cRead l t p payload => frameBytes l t p 0x30 payload
  | .frameI2cReadwrite l t p payload => frameBytes l t p 0x40 payload
  | .response b0 b1 t payload => [b0, b1, t] ++ payload
  | .psuPacket l o fields lo hi => packetBytes l o fields lo hi
  | .psuPktGetHwver => packetBytes 0x04 0x02 [] 0x06 0x00
  | .psuPktCfgWdt e lo hi => packetBytes 0x06 0x81 [e, 0] lo hi
  | .psuPktSetV v lo hi => packetBytes 0x06 0x83 [v, 0] lo hi
  | .psuPktGetV => packetBytes 0x04 0x03 [] 0x07 0x00
  | .psuPktMeasV => packetBytes 0x04 0x04 [] 0x08 0x00
  | .asicPair b0 bit8 => [b0, if bit8 then 1 else 0]

/-! ## The opcode table's words -/

/-- The low `n` bytes of a number, most significant first: R100 writes a row's bytes "in wire order", so
that "the byte at offset 0 is the most significant". -/
def bytesOfWord : Nat → Nat → List Byte
  | 0, _ => []
  | n + 1, w => BitVec.ofNat 8 (w / 256 ^ n) :: bytesOfWord n w

/-- The channel of a table row, by its width: 8 bits is a command's `op` byte, 16 an ASIC pair, 24 a
response, more an outbound list. -/
def tableChannel (nbits : Nat) : Channel :=
  if nbits ≤ 8 then .cmd else if nbits ≤ 16 then .asic else if nbits ≤ 24 then .inbound else .outbound

/-- The zero bytes after a row's bits: operand bytes of zeros; a response has none, since its payload is
everything after the header. -/
def tablePadding : Channel → List Byte
  | .inbound => []
  | .outbound => List.replicate 256 0
  | _ => List.replicate 16 0

/-- The instruction with the table's bits `w`, every later bit zero. -/
def decodeTableWord (nbits w : Nat) : Option Instr :=
  match decode (tableChannel nbits) (bytesOfWord (nbits / 8) w ++ tablePadding (tableChannel nbits)) with
  | .ok i _ => some i
  | .error _ => none

end Sys2Proof
end

