-- ==== Sys2Proof/Config.lean ====
section
/-! DEFINITION. What is fixed for as long as the block is out of reset (R4, R28), and the free values:
the open parameters without a default and the replies of the environment. -/

namespace Sys2Proof

/-- What the environment does in one transport or delay call (R46 to R50). -/
inductive EnvReply where
  /-- The call returns; `arrived` are the bytes that reach the transport's input buffer up to the moment
  the call takes effect (R29, R48, R49). -/
  | returns (arrived : List Byte)
  /-- The call never returns (R207). -/
  | never
  deriving DecidableEq, Repr, Inhabited

/-- What a payload layout puts at one place of an I2C request's payload. -/
inductive PayloadPart where
  /-- The `k`-th operand of the request, counted from 0 in the order of R82: address, register, value. -/
  | operand (k : Nat)
  | const (b : Byte)
  deriving DecidableEq, Repr

/-- A function from a request's operands to its payload bytes (R82), as plain data: the payload of the
operands listed in `table`, and `parts` for all others. The operands are bytes, so every function has such
a form (`Laws/Payload.lean`: `exists_layout`; log 4). -/
structure PayloadLayout where
  parts : List PayloadPart
  table : List (List Byte × List Byte) := []
  deriving DecidableEq, Repr

/-- The default of `I2C_WR_PAYLOAD(a, r, v)`: `[a, r, v]` (R82). -/
def PayloadLayout.defaultWr : PayloadLayout := { parts := [.operand 0, .operand 1, .operand 2] }

/-- The default of `I2C_RD_PAYLOAD(a)`: `[a, 0x01]` (R82). -/
def PayloadLayout.defaultRd : PayloadLayout := { parts := [.operand 0, .const 0x01] }

/-- The default of `I2C_RW_PAYLOAD(a, r)`: `[a, r, 0x01]` (R82). -/
def PayloadLayout.defaultRw : PayloadLayout := { parts := [.operand 0, .operand 1, .const 0x01] }

/-- The parameters of R4 that are open; the ones with a fixed value are constants in Machine/Operands.lean. -/
structure Config where
  /-- `FLUSH_BEFORE_WRITE` -/
  flushBeforeWrite : Bool
  /-- `PSU_PAGE` -/
  psuPage : Byte
  /-- `PSU_ADDR` -/
  psuAddr : Byte
  /-- `PSU_REG` -/
  psuReg : Byte
  /-- `PAGE_ADC`; no rule reads it (R43) -/
  pageAdc : Byte
  /-- `SETTLE_DELAY`, in milliseconds; only handed to the delay primitive (R50) -/
  settleDelay : Nat
  /-- `MAX_WORDS` -/
  maxWords : Nat
  /-- `I2C_WR_PAYLOAD` (R82) -/
  wrLayout : PayloadLayout
  /-- `I2C_RD_PAYLOAD` (R82) -/
  rdLayout : PayloadLayout
  /-- `I2C_RW_PAYLOAD` (R82) -/
  rwLayout : PayloadLayout
  deriving DecidableEq, Repr

/-- `PSU_ADDR`: "OPEN, no default" (R4, 91 N8). -/
opaque Config.openPsuAddr : Byte
/-- `PSU_REG`: "OPEN, no default" (R4, 91 N8). -/
opaque Config.openPsuReg : Byte
/-- `PAGE_ADC`: "OPEN, no default" (R4, 91 N3). -/
opaque Config.openPageAdc : Byte
/-- `MAX_WORDS`: "OPEN, no default" (R4, D39). -/
opaque Config.openMaxWords : Nat

/-- What the environment does in the `n`-th call that no script answers: anything (R49, R207; I18). -/
opaque Config.freeReply : Nat → EnvReply

/-- The configuration with the default of every parameter that has one (R4) and an unknown value for
every one that has none. -/
def Config.nominal : Config where
  flushBeforeWrite := true
  psuPage := 0x04
  psuAddr := Config.openPsuAddr
  psuReg := Config.openPsuReg
  pageAdc := Config.openPageAdc
  settleDelay := 500
  maxWords := Config.openMaxWords
  wrLayout := .defaultWr
  rdLayout := .defaultRd
  rwLayout := .defaultRw

end Sys2Proof
end

