-- ==== Sys2Proof/Machine/State.lean ====
section
/-! DEFINITION. The state of the block: every element of R10's table, the configuration it is run with, what
stands outside it (R29) and the model's own control fields, as plain data; and the state right after reset
(R30). -/

namespace Sys2Proof.Machine

/-- A buffer: the bytes that are not zero, by rising index (canonical form: `Memory.wf` of Machine/Ops.lean). -/
abbrev Memory := List Host.Cell

/-! ## Statuses and results -/

/-- The statuses of R190, by the source's names. -/
inductive Status where
  | ok | shortRead | noData | idMismatch | lengthMismatch | invalidArgument
  | commandSendFailed | replyIncomplete
  /-- Never produced by the block (R197). -/
  | transportUnavailable
  deriving DecidableEq, Repr

/-- The data of a result record: "absent, a byte, a byte list, a word list, or an unsigned integer" (R12). -/
inductive Data where
  | none
  | byte (b : Byte)
  | bytes (l : List Byte)
  | words (l : List Half)
  | num (n : Half)
  deriving DecidableEq, Repr

/-- A result record on the RSP port (R12). -/
structure Rsp where
  status : Status
  data : Data
  deriving DecidableEq, Repr

/-! ## The operand latch and the units' registers -/

/-- `OP` and the operand latch `A_*` (R15); also the record on the CMD port that is copied into it (R11). -/
structure Latch where
  op : Byte := 0
  page : Byte := 0
  cmd : Byte := 0
  txid : Byte := 0
  txidV : Bool := false
  addr : Byte := 0
  reg : Byte := 0
  regV : Bool := false
  value : Byte := 0
  count : Half := 0
  countV : Bool := false
  expLen : Byte := 0
  flush : Bool := false
  opcode : Byte := 0
  mv : Half := 0
  bytes : List Byte := []
  words : List Half := []
  deriving DecidableEq, Repr

/-- `FC_PHASE` (R19). -/
inductive FcPhase where
  | idle | flush | send | recv
  deriving DecidableEq, Repr

/-- `SQ_PHASE` (R20): `wr` is `SQ_WR`, `rd` is `SQ_RD`. -/
inductive SqPhase where
  | idle | wr | rd
  deriving DecidableEq, Repr

/-- `PS_PHASE` (R23). -/
inductive PsPhase where
  | idle | send | settle | recv
  deriving DecidableEq, Repr

/-- The registers of U1 `frame_codec` (R16 to R19). -/
structure U1 where
  /-- `FC_PHASE` -/
  phase : FcPhase
  /-- `TXBUF`, 256 bytes -/
  txbuf : Memory
  /-- `TXLEN` -/
  txlen : BitVec 9
  /-- `RXBUF`, 253 bytes -/
  rxbuf : Memory
  /-- `RXCNT` -/
  rxcnt : BitVec 8
  /-- `EXP_TXID` -/
  expTxid : Byte
  /-- `EXP_LEN` -/
  expLen : BitVec 8
  deriving DecidableEq, Repr

/-- The registers of U2 `i2c_register_bridge` (R20 to R22). -/
structure U2 where
  /-- `SQ_PHASE` -/
  phase : SqPhase
  /-- `SQ_IDX` -/
  idx : BitVec 9
  /-- `SQ_CNT` -/
  cnt : BitVec 9
  /-- `SQBUF`, 257 bytes -/
  buf : Memory
  deriving DecidableEq, Repr

/-- The registers of U3 `psu_packet_wrapper` (R23 to R25). -/
structure U3 where
  /-- `PS_PHASE` -/
  phase : PsPhase
  /-- `PKBUF`, 257 bytes -/
  pkbuf : Memory
  /-- `PKLEN` -/
  pklen : BitVec 9
  /-- `RPBUF`, 255 bytes -/
  rpbuf : Memory
  /-- `RPLEN` -/
  rplen : BitVec 8
  deriving DecidableEq, Repr

/-! ## Outside the block -/

/-- An event of the history (R63). -/
inductive Event where
  | cmd (record : Latch)
  | flush
  | write (b : List Byte)
  | read (n : Nat) (r : List Byte)
  | delay (d : Nat)
  | rsp (record : Rsp)
  deriving DecidableEq, Repr

/-- What the host does next (R204): present a record on the CMD port, given as bytes, until it is
accepted; let one step pass; or reset the block. -/
inductive HostInput where
  | cmd (bytes : List Byte)
  | wait
  | reset
  deriving DecidableEq, Repr

/-- What stands outside the block. -/
structure World where
  /-- The host's coming inputs, next first; none: the host does nothing. -/
  host : List HostInput
  /-- The environment's replies to the coming calls, next first; when used up, `Config.freeReply` answers. -/
  env : List EnvReply
  /-- How many calls have been answered; it selects the next free reply. -/
  calls : Nat
  /-- The transport's input buffer, oldest byte first (R29, R47, R48). -/
  rxIn : List Byte
  /-- The event history, oldest first (R63). -/
  hist : List Event
  deriving DecidableEq, Repr

/-! ## The state -/

structure State where
  /-- The configuration (R28); no step writes it. -/
  cfg : Config
  /-- `BUSY` (R13) -/
  busy : Bool
  /-- `STATUS` (R14) -/
  status : BitVec 4
  /-- `OP` and the operand latch (R15) -/
  latch : Latch
  u1 : U1
  u2 : U2
  u3 : U3
  /-- The running command's result, computed and not yet delivered (D2: delivery is a step of its own). -/
  done : Option Rsp
  /-- The running command is in a transport or delay call that never returns (R207). -/
  hung : Bool
  world : World
  deriving DecidableEq, Repr

/-- What stops the machine in the model. The statuses of R190 are no faults: they are results. -/
inductive Fault where
  /-- A length or index register points past the end of its buffer, so the access names a byte that does
  not exist (R16 to R25, R44). Raised by the transport step of a running command; safe: no run reaches such
  a state. -/
  | bufferRange
  /-- A command runs, and there is neither a call to make nor a result to deliver. Raised by the step of a
  running command; safe: no run reaches such a state. -/
  | noEnabledStep
  deriving DecidableEq, Repr

/-- What the model has no meaning for. -/
inductive Refusal where
  /-- An instruction without a meaning yet, raised by `exec`'s arm; safe. No arm answers it. -/
  | notModelled (mnemonic : String)
  /-- The bytes on the CMD port are not an `op` and its operands. Raised by `step`; safe: the port carries
  records (R11), not loose bytes. -/
  | malformedRecord
  /-- A word list over `MAX_WORDS` "cannot be presented on the port" (R181). Raised by `step`; safe. -/
  | notPresentable
  /-- A wire row in a state whose next step does not carry that byte list. Raised by the meanings of the wire
  rows; safe: such a row is a byte list, "not an instruction" (R100). -/
  | notOnWire
  deriving DecidableEq, Repr

/-- What a step answers. -/
abbrev Result := Host.Outcome State Fault Refusal

/-- The state right after reset with configuration `c` (R30). The elements R30 leaves unspecified (`OP`, the
latch, the buffers, `EXP_TXID`) hold zero: DESIGN CHOICE, log 1. -/
def State.resetWith (c : Config) : State where
  cfg := c
  busy := false
  status := 0
  latch := {}
  u1 := { phase := .idle, txbuf := [], txlen := 0, rxbuf := [], rxcnt := 0, expTxid := 0, expLen := 0 }
  u2 := { phase := .idle, idx := 0, cnt := 0, buf := [] }
  u3 := { phase := .idle, pkbuf := [], pklen := 0, rpbuf := [], rplen := 0 }
  done := none
  hung := false
  world := { host := [], env := [], calls := 0, rxIn := [], hist := [] }

/-- The state right after reset with the default configuration (R4, R30). -/
def State.reset : State := State.resetWith Config.nominal

end Sys2Proof.Machine
end

