-- ==== Sys2Proof/Machine/Operands.lean ====
section
/-! DEFINITION. The fixed parameters (R4), the operand latch of each command (R15), the operands a command reads
from it with their defaults (R97, R132), and the payload layouts of the I2C requests (R82). -/

namespace Sys2Proof.Machine

/-! ## Fixed parameters (R4) -/

/-- `PAGE_I2C`: the I2C page; a command carries its page itself and the block checks none (R43, R75, R138). -/
def pageI2c : Byte := 0x05
/-- `PAGE_GPIO` (R43, R75) -/
def pageGpio : Byte := 0x06
/-- `PAGE_PSU_I2C`: the default of `PSU_PAGE` (`Config.nominal`). -/
def pagePsuI2c : Byte := 0x04
/-- `PAGE_FAN` (R43, R75) -/
def pageFan : Byte := 0x09
/-- `DEFAULT_WR_TXID` -/
def defaultWrTxid : Byte := 0xBC
/-- `DEFAULT_RD_TXID` -/
def defaultRdTxid : Byte := 0xAB
/-- `DEFAULT_REPLY_COUNT` -/
def defaultReplyCount : Nat := 8
/-- `I2C_CMD_WRITE` -/
def i2cCmdWrite : Byte := 0x20
/-- `I2C_CMD_READ` -/
def i2cCmdRead : Byte := 0x30
/-- `I2C_CMD_READWRITE` -/
def i2cCmdReadwrite : Byte := 0x40
/-- `MAX_PAYLOAD` -/
def maxPayload : Nat := 250
/-- `MAX_RSP_PAYLOAD` -/
def maxRspPayload : Nat := 250
/-- `HDR_RSP` -/
def hdrRsp : Nat := 3
/-- `WR_RSP_LEN` (R83): four bytes are read back after an I2C write. -/
def wrRspLen : Nat := 4
/-- `MAX_WR_SEQ` -/
def maxWrSeq : Nat := 257
/-- `MAX_RD_SEQ` -/
def maxRdSeq : Nat := 255
/-- `MAX_PSU_PAYLOAD` -/
def maxPsuPayload : Nat := 252
/-- `V_OFFSET_MV` -/
def vOffsetMv : Nat := 15092
/-- `V_STEP_MV` -/
def vStepMv : Nat := 13

/-! ## I2C payload layouts (R82) -/

/-- The bytes of one part of a layout; an operand the request does not have gives none. -/
def partBytes (ops : List Byte) : PayloadPart → List Byte
  | .operand k => ops[k]?.toList
  | .const b => [b]

/-- The payload a layout gives for the operands of a request; R82 allows results of at most `MAX_PAYLOAD`
bytes, and a longer one is cut (DESIGN CHOICE, log 4). -/
def payloadOf (l : PayloadLayout) (ops : List Byte) : List Byte :=
  ((l.table.lookup ops).getD (l.parts.flatMap (partBytes ops))).take maxPayload

/-- `I2C_WR_PAYLOAD(a, r, v)` -/
def wrPayload (c : Config) (a r v : Byte) : List Byte := payloadOf c.wrLayout [a, r, v]

/-- `I2C_RD_PAYLOAD(a)` -/
def rdPayload (c : Config) (a : Byte) : List Byte := payloadOf c.rdLayout [a]

/-- `I2C_RW_PAYLOAD(a, r)` -/
def rwPayload (c : Config) (a r : Byte) : List Byte := payloadOf c.rwLayout [a, r]

/-! ## The operand latch (R15): which field each command's operands are in -/

/-- An operand and its "given" bit: the latch fields of `[txid]` and `[reg]`. -/
def optByte (o : Option Byte) : Byte := o.getD 0

/-- An optional count. -/
def optHalf (o : Option Half) : Half := o.getD 0

/-- The record of a command; a field the command does not use is zero (log 12). A wire row has no record. -/
def latchOf : Instr → Latch
  | .fcBuild page command txid payload =>
      { op := 0x01, page := page, cmd := command, txid := txid, txidV := true, bytes := payload }
  | .fcParse bytes expTxid expLen =>
      { op := 0x02, txid := expTxid, txidV := true, expLen := expLen, bytes := bytes }
  | .fcXact page command txid payload expLen flush =>
      { op := 0x03, page := page, cmd := command, txid := txid, txidV := true, bytes := payload,
        expLen := expLen, flush := flush }
  | .i2cWrb page addr reg value txid =>
      { op := 0x10, page := page, addr := addr, reg := reg, regV := true, value := value,
        txid := optByte txid, txidV := txid.isSome }
  | .i2cRdb page addr reg txid =>
      { op := 0x11, page := page, addr := addr, reg := optByte reg, regV := reg.isSome,
        txid := optByte txid, txidV := txid.isSome }
  | .i2cWrs page addr reg bytes =>
      { op := 0x12, page := page, addr := addr, reg := reg, regV := true, bytes := bytes }
  | .i2cRds page addr reg count =>
      { op := 0x13, page := page, addr := addr, reg := optByte reg, regV := reg.isSome,
        count := count, countV := true }
  | .psuBuild opcode fields => { op := 0x20, opcode := opcode, bytes := fields }
  | .psuSend psuAddr psuReg packet =>
      { op := 0x21, addr := psuAddr, reg := psuReg, regV := true, bytes := packet }
  | .psuRecv psuAddr count =>
      { op := 0x22, addr := psuAddr, count := optHalf count, countV := count.isSome }
  | .psuCmd opcode fields count =>
      { op := 0x23, opcode := opcode, bytes := fields, count := optHalf count, countV := count.isSome }
  | .psuGetHwver => { op := 0x24 }
  | .psuCfgWdt enableFlag => { op := 0x25, value := enableFlag }
  | .psuSetV hexVoltage => { op := 0x26, value := hexVoltage }
  | .psuGetV => { op := 0x27 }
  | .psuMeasV => { op := 0x28 }
  | .voltEnc mv => { op := 0x29, mv := mv }
  | .voltDec h => { op := 0x2A, value := h }
  | .awEnc words => { op := 0x30, words := words }
  | .awDec bytes expCount =>
      { op := 0x31, bytes := bytes, count := optHalf expCount, countV := expCount.isSome }
  | .frame .. | .frameI2cWrite .. | .frameI2cRead .. | .frameI2cReadwrite .. | .response ..
  | .psuPacket .. | .psuPktGetHwver | .psuPktCfgWdt .. | .psuPktSetV .. | .psuPktGetV | .psuPktMeasV
  | .asicPair .. => {}

/-- `[reg]` as the command reads it: `g <- if A_REG_V then A_REG else none` (R131, R135). -/
def Latch.regGiven (l : Latch) : Option Byte := if l.regV then some l.reg else none

/-- `[count]` or `[expCount]` when given (R183). -/
def Latch.countGiven (l : Latch) : Option Half := if l.countV then some l.count else none

/-- `[txid]` when given. -/
def Latch.txidGiven (l : Latch) : Option Byte := if l.txidV then some l.txid else none

/-- `t <- if A_TXID_V then A_TXID else DEFAULT_WR_TXID` (R130, R132). -/
def Latch.wrTxid (l : Latch) : Byte := if l.txidV then l.txid else defaultWrTxid

/-- `t <- if A_TXID_V then A_TXID else DEFAULT_RD_TXID` (R131, R132). -/
def Latch.rdTxid (l : Latch) : Byte := if l.txidV then l.txid else defaultRdTxid

/-- `c <- if A_COUNT_V then A_COUNT else DEFAULT_REPLY_COUNT` (R153, R155). -/
def Latch.replyCount (l : Latch) : Nat := if l.countV then l.count.toNat else defaultReplyCount

/-- The command a latch holds; `none` for an `OP` that R96 does not list. -/
def Latch.instr (l : Latch) : Option Instr :=
  match l.op.toNat with
  | 0x01 => some (.fcBuild l.page l.cmd l.txid l.bytes)
  | 0x02 => some (.fcParse l.bytes l.txid l.expLen)
  | 0x03 => some (.fcXact l.page l.cmd l.txid l.bytes l.expLen l.flush)
  | 0x10 => some (.i2cWrb l.page l.addr l.reg l.value l.txidGiven)
  | 0x11 => some (.i2cRdb l.page l.addr l.regGiven l.txidGiven)
  | 0x12 => some (.i2cWrs l.page l.addr l.reg l.bytes)
  | 0x13 => some (.i2cRds l.page l.addr l.regGiven l.count)
  | 0x20 => some (.psuBuild l.opcode l.bytes)
  | 0x21 => some (.psuSend l.addr l.reg l.bytes)
  | 0x22 => some (.psuRecv l.addr l.countGiven)
  | 0x23 => some (.psuCmd l.opcode l.bytes l.countGiven)
  | 0x24 => some .psuGetHwver
  | 0x25 => some (.psuCfgWdt l.value)
  | 0x26 => some (.psuSetV l.value)
  | 0x27 => some .psuGetV
  | 0x28 => some .psuMeasV
  | 0x29 => some (.voltEnc l.mv)
  | 0x2A => some (.voltDec l.value)
  | 0x30 => some (.awEnc l.words)
  | 0x31 => some (.awDec l.bytes l.countGiven)
  | _ => none

end Sys2Proof.Machine
end

