-- ==== Sys2Proof/Machine/Flags.lean ====
section
/-! DEFINITION. The two flags, `BUSY` and `STATUS` (R27: "The flags are `BUSY` and `STATUS` only; they are written
only by rules R11 and R12 and by reset"), and the codes of the statuses (R190). -/

namespace Sys2Proof.Machine

/-- The 4-bit code of a status (R190). -/
def Status.code : Status → BitVec 4
  | .ok => 0
  | .shortRead => 1
  | .noData => 2
  | .idMismatch => 3
  | .lengthMismatch => 4
  | .invalidArgument => 5
  | .commandSendFailed => 6
  | .replyIncomplete => 7
  | .transportUnavailable => 8

/-- The flags at acceptance: `BUSY <- 1` (R11). -/
def State.flagsAccepted (s : State) : State := { s with busy := true }

/-- The flags at delivery: `STATUS <- status` and `BUSY <- 0` (R12). -/
def State.flagsDelivered (st : Status) (s : State) : State := { s with busy := false, status := st.code }

end Sys2Proof.Machine
end

