-- ==== Sys2Proof/Machine/Ops.lean ====
section
/-! DEFINITION. The operations the meanings share: buffers, the transport and delay calls (R45 to R50), acceptance
(R11), failing and completing (R12, R200), and one step of a command. -/

namespace Sys2Proof.Machine

/-! ## Buffers (R40, R44): plain byte arrays indexed from 0 -/

/-- What a byte that is not listed reads as: the content of the buffers after reset (log 1). -/
def Memory.unlisted : Byte := 0

/-- The byte at index `a`. -/
def Memory.read : Memory → Nat → Byte
  | [], _ => Memory.unlisted
  | (b, w) :: m, a => if a = b then w else Memory.read m a

/-- `BUF[a] <- v`; a byte equal to what an unlisted one reads as is not listed. -/
def Memory.write : Memory → Nat → Byte → Memory
  | [], a, v => if v = Memory.unlisted then [] else [(a, v)]
  | (b, w) :: m, a, v =>
    if a < b then if v = Memory.unlisted then (b, w) :: m else (a, v) :: (b, w) :: m
    else if a = b then if v = Memory.unlisted then m else (a, v) :: m
    else (b, w) :: Memory.write m a v

/-- `BUF[a .. a + len(l)) <- l`. -/
def Memory.writeList : Memory → Nat → List Byte → Memory
  | m, _, [] => m
  | m, a, v :: l => Memory.writeList (Memory.write m a v) (a + 1) l

/-- `BUF[a .. a + n)`. -/
def Memory.readList (m : Memory) (a : Nat) : Nat → List Byte
  | 0 => []
  | n + 1 => Memory.read m a :: Memory.readList m (a + 1) n

/-- Every listed index is above `lo`, indexes rise strictly and no listed byte is the unlisted one. -/
def Memory.sorted : Nat → Memory → Bool
  | _, [] => true
  | lo, (a, v) :: m => decide (lo ≤ a) && v != Memory.unlisted && Memory.sorted (a + 1) m

/-- The canonical form of a buffer. -/
def Memory.wf (m : Memory) : Bool := Memory.sorted 0 m

/-- Every listed index is inside a buffer of `n` bytes. -/
def Memory.within (n : Nat) (m : Memory) : Bool := m.all fun c => decide (c.1 < n)

/-! ## The history and the environment -/

/-- An event happens (R63). -/
def State.log (e : Event) (s : State) : State := { s with world := { s.world with hist := s.world.hist ++ [e] } }

/-- What the environment does in the next call: its script's next reply, or a free one (R49; log 6). -/
def State.reply (s : State) : EnvReply :=
  match s.world.env with
  | r :: _ => r
  | [] => Config.freeReply s.world.calls

/-- The next reply is used, and the bytes it brings are in the input buffer. -/
def State.answered (arrived : List Byte) (s : State) : State :=
  { s with world := { s.world with env := s.world.env.tail, calls := s.world.calls + 1,
                                   rxIn := s.world.rxIn ++ arrived } }

/-- The next reply is used, and the call never returns: the block is stuck in it (R207). DESIGN CHOICE (log 9), since
R47, R48 and R207 do not say what such a call does to the transport's input buffer: a stuck `RxFlush` discards nothing,
a stuck `RxRead` takes nothing, and no byte arrives in such a call or while the block is stuck. -/
def State.hang (s : State) : State := { s.answered [] with hung := true }

/-- One call: `k` is what the block does when it returns, in the same step; a call that never returns leaves
the block stuck, `BUSY` still 1 (R207). -/
def State.call (k : State → State) (s : State) : Result :=
  match s.reply with
  | .returns arrived => .next (k (s.answered arrived))
  | .never => .next s.hang

/-- `RxFlush()` (R47): the input buffer is empty after it. -/
def State.rxFlush (s : State) : State := { s with world := { s.world with rxIn := [] } }.log .flush

/-- `TxWrite(b)` (R46). -/
def State.txWrite (b : List Byte) (s : State) : State := s.log (.write b)

/-- The bytes `RxRead(n)` returns: the oldest `n`, or all there are (R48). -/
def State.rxBytes (n : Nat) (s : State) : List Byte := s.world.rxIn.take n

/-- `RxRead(n)` (R48): the bytes returned leave the input buffer, the others stay. -/
def State.rxRead (n : Nat) (s : State) : State :=
  { s with world := { s.world with rxIn := s.world.rxIn.drop n } }.log (.read n (s.rxBytes n))

/-- `Delay(d)` (R50): no byte is sent or read. -/
def State.delay (d : Nat) (s : State) : State := s.log (.delay d)

/-! ## Acceptance, completing, failing -/

/-- Acceptance (R11): the whole record is copied into the latch, `BUSY <- 1`; the event `Cmd(record)`. -/
def State.accept (record : Latch) (s : State) : State :=
  { s.flagsAccepted with latch := record }.log (.cmd record)

/-- The command is over: every unit's phase is idle (R19, R20, R23, R200) and the record waits for delivery. -/
def State.finish (r : Rsp) (s : State) : State :=
  { s with done := some r
           u1 := { s.u1 with phase := .idle }
           u2 := { s.u2 with phase := .idle }
           u3 := { s.u3 with phase := .idle } }

/-- `raise E` (R6, R200), the block's only "trap entry": no further call is made, the phases are idle, the record
has status `E` and no data (R12). There is nothing to return from (R201). -/
def State.fail (e : Status) (s : State) : State := s.finish { status := e, data := .none }

/-- `return v` (R6). -/
def State.succeed (d : Data) (s : State) : State := s.finish { status := .ok, data := d }

/-- The last step of a command (R12): the record is delivered, `STATUS <- status`, `BUSY <- 0`. -/
def State.deliver (r : Rsp) (s : State) : State :=
  { s.flagsDelivered r.status with done := none }.log (.rsp r)

/-! ## One step of a command -/

/-- One step of a running command: stuck (R207), or delivering (R12), or `next`, its next call. -/
def State.resume (next : State → Result) (s : State) : Result :=
  if s.hung then .next s
  else match s.done with
    | some r => .next (s.deliver r)
    | none => next s

/-- A pure command makes no call, so it has nothing to do between acceptance and delivery. -/
def State.noCall (_ : State) : Result := .fault .noEnabledStep

/-- One step of the command with this record. While `BUSY = 0` it is accepted, and `start` is what the block
does up to its first call, in the same step (R117). While it runs, its next step is taken; which command runs is
read off the latch, of which a command "uses the ones its rule names and ignores the rest" (R15). While another
command runs it is held off, without effect (R11, R13, I19). -/
def State.runCommand (record : Latch) (start : State → State) (next : State → Result) (s : State) : Result :=
  if s.busy = false then .next (start (s.accept record))
  else if s.latch.instr = record.instr then s.resume next
  else .next s

end Sys2Proof.Machine
end

