-- ==== Sys2Proof/Machine/AsicCodec.lean ====
section
/-! DEFINITION. Unit U4, the ASIC word codec (43_asic_word_codec.md): "Pure, stateless, no I/O". -/

namespace Sys2Proof.Machine

/-- `[w & 0xFF, (w >> 8) & 0x01]` (R180). -/
def wordPair (w : Half) : List Byte := [w.setWidth 8, (w >>> 8).setWidth 8 &&& 0x01]

/-- `encodeWords(w)` (R180). -/
def encodeWords : List Half → List Byte
  | [] => []
  | w :: t => wordPair w ++ encodeWords t

/-- `((byte1 & 0x01) << 8) | byte0` (R182). -/
def pairWord (byte0 byte1 : Byte) : Half := ((byte1 &&& 0x01).setWidth 16 <<< 8) ||| byte0.setWidth 16

/-- The words of the byte pairs, in order (R182). -/
def pairWords : List Byte → List Half
  | b0 :: b1 :: t => pairWord b0 b1 :: pairWords t
  | _ => []

/-- `decodeWords(b, k)`; `none` is `LengthMismatch` (R182). -/
def decodeWords (b : List Byte) (k : Option Half) : Option (List Half) :=
  if b.length % 2 = 1 then none
  else match k with
    | some k => if b.length = 2 * k.toNat then some (pairWords b) else none
    | none => some (pairWords b)

/-- AW_ENC up to its result (R181). -/
def startAwEnc (s : State) : State := s.succeed (.bytes (encodeWords s.latch.words))

/-- AW_ENC (R181). -/
def execAwEnc (words : List Half) (s : State) : Result :=
  s.runCommand (latchOf (.awEnc words)) startAwEnc State.noCall

/-- AW_DEC up to its result (R183). -/
def startAwDec (s : State) : State :=
  match decodeWords s.latch.bytes s.latch.countGiven with
  | some w => s.succeed (.words w)
  | none => s.fail .lengthMismatch

/-- AW_DEC (R183). -/
def execAwDec (bytes : List Byte) (expCount : Option Half) (s : State) : Result :=
  s.runCommand (latchOf (.awDec bytes expCount)) startAwDec State.noCall

end Sys2Proof.Machine
end

