-- ==== Sys2Proof/Machine/FrameCodec.lean ====
section
/-! DEFINITION. Unit U1, the frame codec (40_frame_codec.md): the frame builder, the response check, the transaction
every sending command is made of, and FC_BUILD, FC_PARSE, FC_XACT. -/

namespace Sys2Proof.Machine

/-- `buildFrame(page, command, txid, payload)` (R110, R70 to R72). -/
def buildFrame (page command txid : Byte) (payload : List Byte) : List Byte :=
  [BitVec.ofNat 8 (payload.length + 4), 0x00, txid, 0x00, page, command] ++ payload

/-- The result of a transaction: the response payload, or the status it failed with. -/
inductive XactResult where
  | ok (payload : List Byte)
  | fail (e : Status)
  deriving DecidableEq, Repr

/-- `parseResponse(r, id, n)` (R113): no byte, too few bytes, a wrong id, in this order; bytes 0 and 1 are not
examined (R77). -/
def parseResponse (r : List Byte) (id : Byte) (n : Nat) : XactResult :=
  if r.length = 0 then .fail .noData
  else if r.length < n + hdrRsp then .fail .shortRead
  else if r.getD 2 0 ≠ id then .fail .idMismatch
  else .ok (r.drop hdrRsp)

/-- A command that ends with the result of its transaction, and whose data is `d` of the payload. -/
def State.finishWith (d : List Byte → Data) (q : XactResult) (s : State) : State :=
  match q with
  | .ok p => s.succeed (d p)
  | .fail e => s.fail e

/-! ## The transaction (R115) -/

/-- The start of a transaction: frame, expectations and phase, before any call (R16, R18, R19, R115). -/
def State.startXact (page command txid : Byte) (payload : List Byte) (n : Nat) (flush : Bool) (s : State) : State :=
  { s with u1 := { s.u1 with
      phase := if flush then .flush else .send
      txbuf := s.u1.txbuf.writeList 0 (buildFrame page command txid payload)
      txlen := BitVec.ofNat 9 (payload.length + 6)
      expTxid := txid
      expLen := BitVec.ofNat 8 n
      rxcnt := 0 } }

/-- `TXBUF[0 .. TXLEN)` -/
def State.txFrame (s : State) : List Byte := s.u1.txbuf.readList 0 s.u1.txlen.toNat

/-- The length of the response the transaction reads, `N = EXP_LEN + 3` (R76, R113). -/
def State.rxExpected (s : State) : Nat := s.u1.expLen.toNat + hdrRsp

/-- The registers stay inside their buffers (R16 to R25): the lengths and the index of a running sequence. -/
def State.inBounds (s : State) : Bool :=
  decide (s.u1.txlen.toNat ≤ 256) && decide (s.u1.expLen.toNat ≤ maxRspPayload) &&
  match s.u2.phase with
  | .idle => true
  | .wr => decide (s.u2.idx.toNat < s.u2.cnt.toNat) && decide (s.u2.cnt.toNat ≤ maxWrSeq)
  | .rd => decide (s.u2.idx.toNat < s.u2.cnt.toNat) && decide (s.u2.cnt.toNat ≤ maxRdSeq)

/-- FC_FLUSH, the step of `RxFlush()` (R19, R115). -/
def State.flushStep (s : State) : State :=
  let t := s.rxFlush
  { t with u1 := { t.u1 with phase := .send } }

/-- FC_SEND, the step of `TxWrite(TXBUF[0 .. TXLEN))` (R19, R115). -/
def State.sendStep (s : State) : State :=
  let t := s.txWrite s.txFrame
  { t with u1 := { t.u1 with phase := .recv } }

/-- FC_RECV, the step of `r <- RxRead(n + 3)`: the response is in `RXBUF`, its length in `RXCNT` (R17, R115). -/
def State.recvStep (s : State) : State :=
  let r := s.rxBytes s.rxExpected
  let t := s.rxRead s.rxExpected
  { t with u1 := { t.u1 with
      phase := .idle
      rxbuf := s.u1.rxbuf.writeList 0 r
      rxcnt := BitVec.ofNat 8 r.length } }

/-- The result of the transaction whose response is about to be read (R115: "same step as the read"). -/
def State.recvResult (s : State) : XactResult :=
  parseResponse (s.rxBytes s.rxExpected) s.u1.expTxid s.u1.expLen.toNat

/-- PS_SETTLE, the step of `Delay(SETTLE_DELAY)` (R154). -/
def State.delayStep (s : State) : State := s.delay s.cfg.settleDelay

/-- The next call of a running command, by its phase: `after` is what the command does with the result of a
transaction, `settled` what it does after the settle delay; both are part of the same step, up to the next call. -/
def State.transport (after : XactResult → State → State) (settled : State → State) (s : State) : Result :=
  if s.inBounds = false then .fault .bufferRange
  else match s.u1.phase with
    | .flush => s.call State.flushStep
    | .send => s.call State.sendStep
    | .recv => s.call fun t => after t.recvResult t.recvStep
    | .idle =>
      match s.u3.phase with
      | .settle => s.call fun t => settled t.delayStep
      | _ => .fault .noEnabledStep

/-- A command without a settle delay. -/
def State.noSettle (s : State) : State := s

/-! ## The commands of U1 -/

/-- FC_BUILD up to its result (R111). -/
def startFcBuild (s : State) : State :=
  if s.latch.bytes.length > maxPayload then s.fail .invalidArgument
  else
    let f := buildFrame s.latch.page s.latch.cmd s.latch.txid s.latch.bytes
    let t := { s with u1 := { s.u1 with
      txbuf := s.u1.txbuf.writeList 0 f, txlen := BitVec.ofNat 9 (s.latch.bytes.length + 6) } }
    t.succeed (.bytes t.txFrame)

/-- FC_BUILD (R111). -/
def execFcBuild (page command txid : Byte) (payload : List Byte) (s : State) : Result :=
  s.runCommand (latchOf (.fcBuild page command txid payload)) startFcBuild State.noCall

/-- FC_PARSE up to its result (R112). -/
def startFcParse (s : State) : State :=
  if s.latch.expLen.toNat > maxRspPayload then s.fail .invalidArgument
  else if s.latch.bytes.length > s.latch.expLen.toNat + hdrRsp then s.fail .invalidArgument
  else s.finishWith .bytes (parseResponse s.latch.bytes s.latch.txid s.latch.expLen.toNat)

/-- FC_PARSE (R112). -/
def execFcParse (bytes : List Byte) (expTxid expLen : Byte) (s : State) : Result :=
  s.runCommand (latchOf (.fcParse bytes expTxid expLen)) startFcParse State.noCall

/-- FC_XACT up to its first call (R116). -/
def startFcXact (s : State) : State :=
  if s.latch.bytes.length > maxPayload ∨ s.latch.expLen.toNat > maxRspPayload then s.fail .invalidArgument
  else s.startXact s.latch.page s.latch.cmd s.latch.txid s.latch.bytes s.latch.expLen.toNat s.latch.flush

/-- FC_XACT after its transaction: "its failure status is the command's" (R116). -/
def afterFcXact (q : XactResult) (s : State) : State := s.finishWith .bytes q

/-- FC_XACT (R116). -/
def execFcXact (page command txid : Byte) (payload : List Byte) (expLen : Byte) (flush : Bool) (s : State) : Result :=
  s.runCommand (latchOf (.fcXact page command txid payload expLen flush)) startFcXact
    (State.transport afterFcXact State.noSettle)

end Sys2Proof.Machine
end

