-- ==== Sys2Proof/Machine/I2cBridge.lean ====
section
/-! DEFINITION. Unit U2, the I2C register bridge (41_i2c_register_bridge.md): single-byte writes and reads, each one
transaction of U1, and sequences of them that stop at the first failure. -/

namespace Sys2Proof.Machine

/-- The start of `I2cWrite(page, addr, reg, value, t)` (R130): flushing by `FLUSH_BEFORE_WRITE` (R133), four bytes
back (R83). -/
def State.startWrite (page addr reg value txid : Byte) (s : State) : State :=
  s.startXact page i2cCmdWrite txid (wrPayload s.cfg addr reg value) (wrRspLen - hdrRsp) s.cfg.flushBeforeWrite

/-- The start of `I2cRead(page, addr, reg, t)` (R131): the pure read when no register is given, else the
read-write; always flushing (R133). -/
def State.startRead (page addr : Byte) (reg : Option Byte) (txid : Byte) (s : State) : State :=
  match reg with
  | none => s.startXact page i2cCmdRead txid (rdPayload s.cfg addr) 1 true
  | some r => s.startXact page i2cCmdReadwrite txid (rwPayload s.cfg addr r) 1 true

/-! ## Sequences -/

/-- `SQ_PHASE <- SQ_IDLE` -/
def State.sqIdle (s : State) : State := { s with u2 := { s.u2 with phase := .idle } }

/-- `SQ_IDX <- SQ_IDX + 1` -/
def State.sqNext (s : State) : State := { s with u2 := { s.u2 with idx := s.u2.idx + 1 } }

/-- The head of the loop of `I2cWriteSeq` (R134): the next element's transaction, or the end. -/
def State.writeLoop (page addr reg : Byte) (onEnd : State → State) (s : State) : State :=
  if s.u2.idx.toNat < s.u2.cnt.toNat then
    s.startWrite page addr reg (s.u2.buf.read s.u2.idx.toNat) defaultWrTxid
  else onEnd s.sqIdle

/-- The registers at the start of `I2cWriteSeq(page, addr, reg, b)` (R134). -/
def State.loadWriteSeq (b : List Byte) (s : State) : State :=
  { s with u2 := { phase := .wr, idx := 0, cnt := BitVec.ofNat 9 b.length, buf := s.u2.buf.writeList 0 b } }

/-- `I2cWriteSeq(page, addr, reg, b)` up to its first call (R134). -/
def State.startWriteSeq (page addr reg : Byte) (b : List Byte) (onEnd : State → State) (s : State) : State :=
  (s.loadWriteSeq b).writeLoop page addr reg onEnd

/-- After an element of a write sequence: the first failure ends it, `SQ_IDX` left at the failing offset (R21,
R134). -/
def State.afterWriteElem (page addr reg : Byte) (onEnd : State → State) (onFail : Status → State → State)
    (q : XactResult) (s : State) : State :=
  match q with
  | .ok _ => s.sqNext.writeLoop page addr reg onEnd
  | .fail e => onFail e s.sqIdle

/-- The head of the loop of `I2cReadSeq` (R135): the next element's transaction, or the end with
`SQBUF[0 .. SQ_CNT)`. -/
def State.readLoop (page addr : Byte) (reg : Option Byte) (onEnd : List Byte → State → State) (s : State) : State :=
  if s.u2.idx.toNat < s.u2.cnt.toNat then s.startRead page addr reg defaultRdTxid
  else onEnd (s.u2.buf.readList 0 s.u2.cnt.toNat) s.sqIdle

/-- The registers at the start of `I2cReadSeq(page, addr, reg, c)` (R135). -/
def State.loadReadSeq (c : Nat) (s : State) : State :=
  { s with u2 := { s.u2 with phase := .rd, idx := 0, cnt := BitVec.ofNat 9 c } }

/-- `I2cReadSeq(page, addr, reg, c)` up to its first call (R135). -/
def State.startReadSeq (page addr : Byte) (reg : Option Byte) (c : Nat) (onEnd : List Byte → State → State)
    (s : State) : State :=
  (s.loadReadSeq c).readLoop page addr reg onEnd

/-- `SQBUF[SQ_IDX] <- b` -/
def State.sqStore (b : Byte) (s : State) : State :=
  { s with u2 := { s.u2 with buf := s.u2.buf.write s.u2.idx.toNat b } }

/-- After an element of a read sequence (R135). -/
def State.afterReadElem (page addr : Byte) (reg : Option Byte) (onEnd : List Byte → State → State)
    (onFail : Status → State → State) (q : XactResult) (s : State) : State :=
  match q with
  | .ok p => (s.sqStore (p.getD 0 0)).sqNext.readLoop page addr reg onEnd
  | .fail e => onFail e s.sqIdle

/-! ## The commands of U2 -/

/-- I2C_WRB up to its first call (R130). -/
def startI2cWrb (s : State) : State :=
  s.startWrite s.latch.page s.latch.addr s.latch.reg s.latch.value s.latch.wrTxid

/-- I2C_WRB after its transaction: the returned byte is discarded, the result is the source's `Ack` (R130). -/
def afterI2cWrb (q : XactResult) (s : State) : State := s.finishWith (fun _ => .none) q

/-- I2C_WRB (R130). -/
def execI2cWrb (page addr reg value : Byte) (txid : Option Byte) (s : State) : Result :=
  s.runCommand (latchOf (.i2cWrb page addr reg value txid)) startI2cWrb (State.transport afterI2cWrb State.noSettle)

/-- I2C_RDB up to its first call (R131). -/
def startI2cRdb (s : State) : State :=
  s.startRead s.latch.page s.latch.addr s.latch.regGiven s.latch.rdTxid

/-- I2C_RDB after its transaction: the one payload byte (R131). -/
def afterI2cRdb (q : XactResult) (s : State) : State := s.finishWith (fun p => .byte (p.getD 0 0)) q

/-- I2C_RDB (R131). -/
def execI2cRdb (page addr : Byte) (reg txid : Option Byte) (s : State) : Result :=
  s.runCommand (latchOf (.i2cRdb page addr reg txid)) startI2cRdb (State.transport afterI2cRdb State.noSettle)

/-- I2C_WRS at the end of its sequence: "OK, no data: the source's true" (R134). -/
def endI2cWrs (s : State) : State := s.succeed .none

/-- I2C_WRS up to its first call, or its end for the empty list (R134). -/
def startI2cWrs (s : State) : State :=
  if s.latch.bytes.length > maxWrSeq then s.fail .invalidArgument
  else s.startWriteSeq s.latch.page s.latch.addr s.latch.reg s.latch.bytes endI2cWrs

/-- I2C_WRS after an element: a failure is reported with the element's own status (R134, D15). -/
def afterI2cWrs (q : XactResult) (s : State) : State :=
  s.afterWriteElem s.latch.page s.latch.addr s.latch.reg endI2cWrs State.fail q

/-- I2C_WRS (R134). -/
def execI2cWrs (page addr reg : Byte) (bytes : List Byte) (s : State) : Result :=
  s.runCommand (latchOf (.i2cWrs page addr reg bytes)) startI2cWrs (State.transport afterI2cWrs State.noSettle)

/-- I2C_RDS at the end of its sequence: exactly `count` bytes, in the order read (R135). -/
def endI2cRds (b : List Byte) (s : State) : State := s.succeed (.bytes b)

/-- I2C_RDS up to its first call, or its end for `count = 0` (R135). -/
def startI2cRds (s : State) : State :=
  if s.latch.count.toNat > maxRdSeq then s.fail .invalidArgument
  else s.startReadSeq s.latch.page s.latch.addr s.latch.regGiven s.latch.count.toNat endI2cRds

/-- I2C_RDS after an element: a failure drops the bytes read before (R135). -/
def afterI2cRds (q : XactResult) (s : State) : State :=
  s.afterReadElem s.latch.page s.latch.addr s.latch.regGiven endI2cRds State.fail q

/-- I2C_RDS (R135). -/
def execI2cRds (page addr : Byte) (reg : Option Byte) (count : Half) (s : State) : Result :=
  s.runCommand (latchOf (.i2cRds page addr reg count)) startI2cRds (State.transport afterI2cRds State.noSettle)

end Sys2Proof.Machine
end

