-- ==== Sys2Proof/Machine/PsuWrapper.lean ====
section
/-! DEFINITION. Unit U3, the PSU packet wrapper (42_psu_packet_wrapper.md): the packet builder, the exchange with the
PSU, the five PSU operations and the voltage law. -/

namespace Sys2Proof.Machine

/-! ## Packets -/

/-- `checksum` of `buildPacket`: the sum of the length byte and the payload, mod 65536 (R87, R150). -/
def checksum (length : Nat) (payload : List Byte) : Nat := (length + (payload.map (·.toNat)).sum) % 65536

/-- `buildPacket(opcode, fields)` (R150): header, length, payload, checksum low byte first. -/
def buildPacket (opcode : Byte) (fields : List Byte) : List Byte :=
  let payload := opcode :: fields
  let length := payload.length + 3
  let sum := checksum length payload
  [0x55, 0xAA, BitVec.ofNat 8 length] ++ payload ++ [BitVec.ofNat 8 sum, BitVec.ofNat 8 (sum / 256)]

/-- `PKBUF <- packet; PKLEN <- its length` (R24). -/
def State.loadPacket (opcode : Byte) (fields : List Byte) (s : State) : State :=
  { s with u3 := { s.u3 with
      pkbuf := s.u3.pkbuf.writeList 0 (buildPacket opcode fields)
      pklen := BitVec.ofNat 9 (fields.length + 6) } }

/-- `PKBUF[0 .. PKLEN)` -/
def State.packet (s : State) : List Byte := s.u3.pkbuf.readList 0 s.u3.pklen.toNat

/-! ## The voltage law -/

/-- `voltDecode(h)` in millivolts (R161). -/
def voltDecode (h : Byte) : Half := BitVec.ofNat 16 (vOffsetMv - vStepMv * h.toNat)

/-- `floor((2*x + 13) / 26)` for `x = 15092 - mv`, a signed integer of unbounded width (R162, R99). -/
def voltCode (mv : Half) : Int := (2 * ((vOffsetMv : Int) - mv.toNat) + 13).fdiv 26

/-- `voltEncode(mv)`; `none` is "out of range" (R162). -/
def voltEncode (mv : Half) : Option Byte :=
  if 0 ≤ voltCode mv ∧ voltCode mv ≤ 255 then some (BitVec.ofNat 8 (voltCode mv).toNat) else none

/-- `measRaw(s)`: byte 5 high, byte 4 low (R163). -/
def measRaw (reply : List Byte) : Half := reply.getD 5 0 ++ reply.getD 4 0

/-! ## The exchange with the PSU (R154) -/

/-- `PS_PHASE <- p` -/
def State.psPhase (p : PsPhase) (s : State) : State := { s with u3 := { s.u3 with phase := p } }

/-- `RPBUF[0 .. c) <- s; RPLEN <- c` (R25). -/
def State.loadReply (b : List Byte) (s : State) : State :=
  { s with u3 := { s.u3 with
      rpbuf := s.u3.rpbuf.writeList 0 b
      rplen := BitVec.ofNat 8 b.length } }

/-- The reply is complete: it is in `RPBUF`, and `decode` of it is the command's data (R153 to R160). -/
def endReply (decode : List Byte → Data) (b : List Byte) (s : State) : State :=
  let t := (s.psPhase .idle).loadReply b
  t.succeed (decode (t.u3.rpbuf.readList 0 t.u3.rplen.toNat))

/-- A failed element of the send sequence, whatever its own status (R152, R154, R166). -/
def sendFailed (_ : Status) (s : State) : State := (s.psPhase .idle).fail .commandSendFailed

/-- A failed element of the reply sequence (R153, R154, R166). -/
def replyFailed (_ : Status) (s : State) : State := (s.psPhase .idle).fail .replyIncomplete

/-- `PsuCommand(opcode, fields, c)` up to its first call: the packet is built and its write sequence begins; when
the sequence ends the settle delay is next (R154). -/
def startExchange (opcode : Byte) (fields : List Byte) (s : State) : State :=
  let t := (s.loadPacket opcode fields).psPhase .send
  t.startWriteSeq t.cfg.psuPage t.cfg.psuAddr t.cfg.psuReg t.packet (State.psPhase .settle)

/-- `PsuCommand` after the settle delay: the reply sequence of `c` bytes begins (R154). -/
def settledExchange (c : Nat) (decode : List Byte → Data) (s : State) : State :=
  let t := s.psPhase .recv
  t.startReadSeq t.cfg.psuPage t.cfg.psuAddr none c (endReply decode)

/-- `PsuCommand` after an element of its send or its reply sequence (R154). -/
def afterExchange (decode : List Byte → Data) (q : XactResult) (s : State) : State :=
  match s.u3.phase with
  | .recv => s.afterReadElem s.cfg.psuPage s.cfg.psuAddr none (endReply decode) replyFailed q
  | _ => s.afterWriteElem s.cfg.psuPage s.cfg.psuAddr s.cfg.psuReg (State.psPhase .settle) sendFailed q

/-! ## PSU_BUILD, PSU_SEND, PSU_RECV, PSU_CMD -/

/-- PSU_BUILD up to its result (R151). -/
def startPsuBuild (s : State) : State :=
  if s.latch.bytes.length > maxPsuPayload - 1 then s.fail .invalidArgument
  else
    let t := s.loadPacket s.latch.opcode s.latch.bytes
    t.succeed (.bytes t.packet)

/-- PSU_BUILD (R151). -/
def execPsuBuild (opcode : Byte) (fields : List Byte) (s : State) : Result :=
  s.runCommand (latchOf (.psuBuild opcode fields)) startPsuBuild State.noCall

/-- PSU_SEND at the end of its sequence: "OK: the source's true" (R152). -/
def endPsuSend (s : State) : State := (s.psPhase .idle).succeed .none

/-- PSU_SEND up to its first call (R152). -/
def startPsuSend (s : State) : State :=
  if s.latch.bytes.length > maxWrSeq then s.fail .invalidArgument
  else (s.psPhase .send).startWriteSeq s.cfg.psuPage s.latch.addr s.latch.reg s.latch.bytes endPsuSend

/-- PSU_SEND after an element (R152). -/
def afterPsuSend (q : XactResult) (s : State) : State :=
  s.afterWriteElem s.cfg.psuPage s.latch.addr s.latch.reg endPsuSend sendFailed q

/-- PSU_SEND (R152). -/
def execPsuSend (psuAddr psuReg : Byte) (packet : List Byte) (s : State) : Result :=
  s.runCommand (latchOf (.psuSend psuAddr psuReg packet)) startPsuSend
    (State.transport afterPsuSend State.noSettle)

/-- PSU_RECV up to its first call (R153). -/
def startPsuRecv (s : State) : State :=
  if s.latch.replyCount > maxRdSeq then s.fail .invalidArgument
  else (s.psPhase .recv).startReadSeq s.cfg.psuPage s.latch.addr none s.latch.replyCount (endReply .bytes)

/-- PSU_RECV after an element (R153). -/
def afterPsuRecv (q : XactResult) (s : State) : State :=
  s.afterReadElem s.cfg.psuPage s.latch.addr none (endReply .bytes) replyFailed q

/-- PSU_RECV (R153). -/
def execPsuRecv (psuAddr : Byte) (count : Option Half) (s : State) : Result :=
  s.runCommand (latchOf (.psuRecv psuAddr count)) startPsuRecv (State.transport afterPsuRecv State.noSettle)

/-- PSU_CMD up to its first call (R155). -/
def startPsuCmd (s : State) : State :=
  if s.latch.bytes.length > maxPsuPayload - 1 ∨ s.latch.replyCount > maxRdSeq then s.fail .invalidArgument
  else startExchange s.latch.opcode s.latch.bytes s

/-- PSU_CMD after the settle delay (R155). -/
def settledPsuCmd (s : State) : State := settledExchange s.latch.replyCount .bytes s

/-- PSU_CMD (R155). -/
def execPsuCmd (opcode : Byte) (fields : List Byte) (count : Option Half) (s : State) : Result :=
  s.runCommand (latchOf (.psuCmd opcode fields count)) startPsuCmd
    (State.transport (afterExchange .bytes) settledPsuCmd)

/-! ## The five PSU operations (R156 to R160) -/

/-- The data of PSU_GET_V: `voltDecode(s[4])` (R159). -/
def getVData (reply : List Byte) : Data := .num (voltDecode (reply.getD 4 0))

/-- The data of PSU_MEAS_V (R160). -/
def measVData (reply : List Byte) : Data := .num (measRaw reply)

/-- The calls of a PSU operation with this decode of its 8-byte reply. -/
def operationCalls (decode : List Byte → Data) (s : State) : Result :=
  s.transport (afterExchange decode) (settledExchange defaultReplyCount decode)

/-- PSU_GET_HWVER (R156). -/
def execPsuGetHwver (s : State) : Result :=
  s.runCommand (latchOf .psuGetHwver) (startExchange 0x02 []) (operationCalls .bytes)

/-- PSU_CFG_WDT up to its first call: `[A_VALUE, 0x00]` (R157). -/
def startPsuCfgWdt (s : State) : State := startExchange 0x81 [s.latch.value, 0x00] s

/-- PSU_CFG_WDT (R157). -/
def execPsuCfgWdt (enableFlag : Byte) (s : State) : Result :=
  s.runCommand (latchOf (.psuCfgWdt enableFlag)) startPsuCfgWdt (operationCalls .bytes)

/-- PSU_SET_V up to its first call: `[A_VALUE, 0x00]` (R158). -/
def startPsuSetV (s : State) : State := startExchange 0x83 [s.latch.value, 0x00] s

/-- PSU_SET_V (R158). -/
def execPsuSetV (hexVoltage : Byte) (s : State) : Result :=
  s.runCommand (latchOf (.psuSetV hexVoltage)) startPsuSetV (operationCalls .bytes)

/-- PSU_GET_V (R159). -/
def execPsuGetV (s : State) : Result :=
  s.runCommand (latchOf .psuGetV) (startExchange 0x03 []) (operationCalls getVData)

/-- PSU_MEAS_V (R160). -/
def execPsuMeasV (s : State) : Result :=
  s.runCommand (latchOf .psuMeasV) (startExchange 0x04 []) (operationCalls measVData)

/-! ## VOLT_ENC, VOLT_DEC -/

/-- VOLT_ENC up to its result (R164). -/
def startVoltEnc (s : State) : State :=
  match voltEncode s.latch.mv with
  | some h => s.succeed (.byte h)
  | none => s.fail .invalidArgument

/-- VOLT_ENC (R164). -/
def execVoltEnc (mv : Half) (s : State) : Result :=
  s.runCommand (latchOf (.voltEnc mv)) startVoltEnc State.noCall

/-- VOLT_DEC up to its result (R165). -/
def startVoltDec (s : State) : State := s.succeed (.num (voltDecode s.latch.value))

/-- VOLT_DEC (R165). -/
def execVoltDec (h : Byte) (s : State) : Result :=
  s.runCommand (latchOf (.voltDec h)) startVoltDec State.noCall

end Sys2Proof.Machine
end

