-- ==== Sys2Proof/Machine/Wire.lean ====
section
/-! DEFINITION. The wire rows of the opcode table (R100). They "describe byte lists on the wire, not instructions":
no host command selects one. The meaning of a wire row is the step of the running command that carries exactly
that byte list; in a state whose next step does not carry it there is nothing to run (log 2). -/

namespace Sys2Proof.Machine

/-- A command runs, and it has a call to make (not stuck, no result yet). -/
def State.calling (s : State) : Bool := s.busy && !s.hung && s.done.isNone

/-- What the running command does with the result of a transaction: the `after` of the command in the latch. -/
def afterOf : Option Instr → XactResult → State → State
  | some (.fcXact ..) => afterFcXact
  | some (.i2cWrb ..) => afterI2cWrb
  | some (.i2cRdb ..) => afterI2cRdb
  | some (.i2cWrs ..) => afterI2cWrs
  | some (.i2cRds ..) => afterI2cRds
  | some (.psuSend ..) => afterPsuSend
  | some (.psuRecv ..) => afterPsuRecv
  | some (.psuCmd ..) => afterExchange .bytes
  | some .psuGetHwver => afterExchange .bytes
  | some (.psuCfgWdt _) => afterExchange .bytes
  | some (.psuSetV _) => afterExchange .bytes
  | some .psuGetV => afterExchange getVData
  | some .psuMeasV => afterExchange measVData
  | _ => fun _ s => s

/-- The next step is the `TxWrite` of this frame (R115). -/
def State.sendsFrame (f : List Byte) (s : State) : Bool :=
  s.calling && decide (s.u1.phase = .send) && decide (s.txFrame = f)

/-- The next step is the `TxWrite` of a frame that carries a byte of this packet (R90). -/
def State.sendsPacket (p : List Byte) (s : State) : Bool :=
  s.calling && decide (s.u1.phase = .send) && decide (s.u2.phase = .wr) && decide (s.u3.phase = .send) &&
    decide (s.u2.buf.readList 0 s.u2.cnt.toNat = p)

/-- The next step is the `RxRead` that returns this byte list (R48, R76). -/
def State.readsResponse (r : List Byte) (s : State) : Bool :=
  s.calling && decide (s.u1.phase = .recv) &&
    match s.reply with
    | .returns arrived => decide ((s.answered arrived).rxBytes s.rxExpected = r)
    | .never => false

/-- The byte pairs of a list, in order. -/
def bytePairs : List Byte → List (Byte × Byte)
  | b0 :: b1 :: t => (b0, b1) :: bytePairs t
  | _ => []

/-- The record that hands this pair over: the result of AW_ENC that holds it, or of the AW_DEC that decoded it
(R180, R182). -/
def State.pairResult (b0 b1 : Byte) (s : State) : Option Rsp :=
  if s.busy && !s.hung then
    match s.done, s.latch.instr with
    | some ⟨.ok, .bytes l⟩, some (.awEnc _) => if (b0, b1) ∈ bytePairs l then some ⟨.ok, .bytes l⟩ else none
    | some ⟨.ok, .words w⟩, some (.awDec b _) => if (b0, b1) ∈ bytePairs b then some ⟨.ok, .words w⟩ else none
    | _, _ => none
  else none

/-- The sending step of the running command, whichever it is: it only hands `TXBUF` to the transport. -/
def State.sendOnly (s : State) : Result := s.transport (fun _ t => t) State.noSettle

/-- A frame row: the step that sends the frame. -/
def execFrameBytes (f : List Byte) (s : State) : Result :=
  if s.sendsFrame f then s.sendOnly else .refused .notOnWire

/-- A packet row: the step that sends one byte of the packet, in a frame of its own (R90). -/
def execPacketBytes (p : List Byte) (s : State) : Result :=
  if s.sendsPacket p then s.sendOnly else .refused .notOnWire

/-- FRAME (R70, R110). -/
def execFrame (length txid page command : Byte) (payload : List Byte) (s : State) : Result :=
  execFrameBytes (frameBytes length txid page command payload) s

/-- FRAME_I2C_WRITE (R80, R130). -/
def execFrameI2cWrite (length txid page : Byte) (payload : List Byte) (s : State) : Result :=
  execFrameBytes (frameBytes length txid page i2cCmdWrite payload) s

/-- FRAME_I2C_READ (R81, R131). -/
def execFrameI2cRead (length txid page : Byte) (payload : List Byte) (s : State) : Result :=
  execFrameBytes (frameBytes length txid page i2cCmdRead payload) s

/-- FRAME_I2C_READWRITE (R81, R131). -/
def execFrameI2cReadwrite (length txid page : Byte) (payload : List Byte) (s : State) : Result :=
  execFrameBytes (frameBytes length txid page i2cCmdReadwrite payload) s

/-- RESPONSE (R76, R113): the step that reads it, checks it and goes on with the running command. -/
def execResponse (byte0 byte1 txid : Byte) (payload : List Byte) (s : State) : Result :=
  if s.readsResponse ([byte0, byte1, txid] ++ payload) then
    s.transport (afterOf s.latch.instr) State.noSettle
  else .refused .notOnWire

/-- PSU_PACKET (R85, R150). -/
def execPsuPacket (length opcode : Byte) (fields : List Byte) (checksumLo checksumHi : Byte) (s : State) : Result :=
  execPacketBytes (packetBytes length opcode fields checksumLo checksumHi) s

/-- PSU_PKT_GET_HWVER (R88, R156). -/
def execPsuPktGetHwver (s : State) : Result := execPacketBytes (packetBytes 0x04 0x02 [] 0x06 0x00) s

/-- PSU_PKT_CFG_WDT (R88, R157). -/
def execPsuPktCfgWdt (enableFlag checksumLo checksumHi : Byte) (s : State) : Result :=
  execPacketBytes (packetBytes 0x06 0x81 [enableFlag, 0x00] checksumLo checksumHi) s

/-- PSU_PKT_SET_V (R88, R158). -/
def execPsuPktSetV (hexVoltage checksumLo checksumHi : Byte) (s : State) : Result :=
  execPacketBytes (packetBytes 0x06 0x83 [hexVoltage, 0x00] checksumLo checksumHi) s

/-- PSU_PKT_GET_V (R88, R159). -/
def execPsuPktGetV (s : State) : Result := execPacketBytes (packetBytes 0x04 0x03 [] 0x07 0x00) s

/-- PSU_PKT_MEAS_V (R88, R160). -/
def execPsuPktMeasV (s : State) : Result := execPacketBytes (packetBytes 0x04 0x04 [] 0x08 0x00) s

/-- ASIC_PAIR (R92, R180, R182): the step that hands the pair, or the word decoded from it, to the host. -/
def execAsicPair (byte0 : Byte) (bit8 : Bool) (s : State) : Result :=
  match s.pairResult byte0 (if bit8 then 1 else 0) with
  | some r => .next (s.deliver r)
  | none => .refused .notOnWire

/-! ## Placing a wire row: the state of a running command whose next step carries it -/

/-- A command with this record runs, not stuck, without a result yet, no unit active. -/
def State.running (record : Latch) (s : State) : State :=
  { s with busy := true, hung := false, done := none, latch := record
           u1 := { s.u1 with phase := .idle }, u2 := { s.u2 with phase := .idle }, u3 := { s.u3 with phase := .idle } }

/-- The environment's next reply. -/
def State.willReply (r : EnvReply) (s : State) : State :=
  { s with world := { s.world with env := r :: s.world.env } }

/-- A running FC_XACT about to send this frame. -/
def State.placeFrame (length txid page command : Byte) (payload : List Byte) (s : State) : State :=
  let t := (s.running (latchOf (.fcXact page command txid payload 0 false))).willReply (.returns [])
  let f := frameBytes length txid page command payload
  { t with u1 := { t.u1 with
      phase := .send, txbuf := t.u1.txbuf.writeList 0 f, txlen := BitVec.ofNat 9 f.length
      expTxid := txid, expLen := 0, rxcnt := 0 } }

/-- A running PSU_SEND (to address 0, register 0) about to send the first byte of this packet. -/
def State.placePacket (p : List Byte) (s : State) : State :=
  let t := (s.running (latchOf (.psuSend 0 0 p))).willReply (.returns [])
  let u := startPsuSend t
  { u with u1 := { u.u1 with phase := .send } }

/-- A running FC_XACT about to read this response. -/
def State.placeResponse (byte0 byte1 txid : Byte) (payload : List Byte) (s : State) : State :=
  let t := (s.running (latchOf (.fcXact 0 0 txid [] (BitVec.ofNat 8 payload.length) false))).willReply
    (.returns ([byte0, byte1, txid] ++ payload))
  let u := startFcXact t
  { u with u1 := { u.u1 with phase := .recv }, world := { u.world with rxIn := [] } }

/-- A running AW_ENC about to deliver this pair. -/
def State.placePair (byte0 : Byte) (bit8 : Bool) (s : State) : State :=
  startAwEnc (s.running (latchOf (.awEnc [pairWord byte0 (if bit8 then 1 else 0)])))

/-- The state whose next step carries the wire row; a command is placed on the CMD port instead. -/
def State.placeWire (i : Instr) (s : State) : State :=
  match i with
  | .frame l t p c payload => s.placeFrame l t p c payload
  | .frameI2cWrite l t p payload => s.placeFrame l t p i2cCmdWrite payload
  | .frameI2cRead l t p payload => s.placeFrame l t p i2cCmdRead payload
  | .frameI2cReadwrite l t p payload => s.placeFrame l t p i2cCmdReadwrite payload
  | .response b0 b1 t payload => s.placeResponse b0 b1 t payload
  | .asicPair b0 b => s.placePair b0 b
  | i => if i.channel = .outbound then s.placePacket (encode i) else s

end Sys2Proof.Machine
end

