-- ==== Sys2Proof/Machine/Dispatch.lean ====
section
/-! DEFINITION. `exec`: one arm per row of the opcode table, each one call of that row's meaning. For a host command it
is one step of that command: its acceptance while `BUSY = 0`, its next call or its delivery while it runs. -/

namespace Sys2Proof.Machine

def exec (i : Instr) (s : State) : Host.Outcome State Fault Refusal :=
  match i with
  | .fcBuild page command txid payload => Sys2Proof.Machine.execFcBuild page command txid payload s
  | .fcParse bytes expTxid expLen => Sys2Proof.Machine.execFcParse bytes expTxid expLen s
  | .fcXact page command txid payload expLen flush => Sys2Proof.Machine.execFcXact page command txid payload expLen flush s
  | .i2cWrb page addr reg value txid => Sys2Proof.Machine.execI2cWrb page addr reg value txid s
  | .i2cRdb page addr reg txid => Sys2Proof.Machine.execI2cRdb page addr reg txid s
  | .i2cWrs page addr reg bytes => Sys2Proof.Machine.execI2cWrs page addr reg bytes s
  | .i2cRds page addr reg count => Sys2Proof.Machine.execI2cRds page addr reg count s
  | .psuBuild opcode fields => Sys2Proof.Machine.execPsuBuild opcode fields s
  | .psuSend psuAddr psuReg packet => Sys2Proof.Machine.execPsuSend psuAddr psuReg packet s
  | .psuRecv psuAddr count => Sys2Proof.Machine.execPsuRecv psuAddr count s
  | .psuCmd opcode fields count => Sys2Proof.Machine.execPsuCmd opcode fields count s
  | .psuGetHwver => Sys2Proof.Machine.execPsuGetHwver s
  | .psuCfgWdt enableFlag => Sys2Proof.Machine.execPsuCfgWdt enableFlag s
  | .psuSetV hexVoltage => Sys2Proof.Machine.execPsuSetV hexVoltage s
  | .psuGetV => Sys2Proof.Machine.execPsuGetV s
  | .psuMeasV => Sys2Proof.Machine.execPsuMeasV s
  | .voltEnc mv => Sys2Proof.Machine.execVoltEnc mv s
  | .voltDec h => Sys2Proof.Machine.execVoltDec h s
  | .awEnc words => Sys2Proof.Machine.execAwEnc words s
  | .awDec bytes expCount => Sys2Proof.Machine.execAwDec bytes expCount s
  | .frame length txid page command payload => Sys2Proof.Machine.execFrame length txid page command payload s
  | .frameI2cWrite length txid page payload => Sys2Proof.Machine.execFrameI2cWrite length txid page payload s
  | .frameI2cRead length txid page payload => Sys2Proof.Machine.execFrameI2cRead length txid page payload s
  | .frameI2cReadwrite length txid page payload => Sys2Proof.Machine.execFrameI2cReadwrite length txid page payload s
  | .response byte0 byte1 txid payload => Sys2Proof.Machine.execResponse byte0 byte1 txid payload s
  | .psuPacket length opcode fields lo hi => Sys2Proof.Machine.execPsuPacket length opcode fields lo hi s
  | .psuPktGetHwver => Sys2Proof.Machine.execPsuPktGetHwver s
  | .psuPktCfgWdt enableFlag lo hi => Sys2Proof.Machine.execPsuPktCfgWdt enableFlag lo hi s
  | .psuPktSetV hexVoltage lo hi => Sys2Proof.Machine.execPsuPktSetV hexVoltage lo hi s
  | .psuPktGetV => Sys2Proof.Machine.execPsuPktGetV s
  | .psuPktMeasV => Sys2Proof.Machine.execPsuPktMeasV s
  | .asicPair byte0 bit8 => Sys2Proof.Machine.execAsicPair byte0 bit8 s

end Sys2Proof.Machine
end

