-- ==== Sys2Proof/Machine/Fetch.lean ====
section
/-! DEFINITION. What a step runs: the host's reset, the running command, or the record on the CMD port (R11, R13,
R31); how a rejected record is answered (R96, R194); and how an instruction is placed where the next step takes it. -/

namespace Sys2Proof.Machine

/-- What the next step is about. -/
inductive Fetched where
  /-- The host resets the block (R31, R220). -/
  | reset
  /-- Nothing runs and nothing is presented (R220: "does nothing until a command is accepted"). -/
  | idle
  /-- One step of this command. -/
  | run (i : Instr)
  /-- A record whose `op` is not in R96 is presented. -/
  | illegal (op : Byte)
  /-- A command with such an `op` runs: its result is still to be delivered. -/
  | illegalRunning
  /-- The bytes on the port are not an `op` and its operands. -/
  | malformed
  /-- A list over `MAX_WORDS` (R181, R183). -/
  | unpresentable
  deriving DecidableEq, Repr

/-- The record on the CMD port, while `BUSY = 0`. -/
def fetchRecord (c : Config) (bytes : List Byte) : Fetched :=
  match decode .cmd bytes with
  | .ok i _ => if i.wf c.maxWords then .run i else .unpresentable
  | .error (.illegalOp op) => .illegal op
  | .error _ => .malformed

/-- While `BUSY = 1` the port is not looked at (R11): the command in the latch goes on. -/
def fetch (s : State) : Fetched :=
  match s.world.host, s.busy with
  | .reset :: _, _ => .reset
  | _, true =>
    match s.latch.instr with
    | some i => .run i
    | none => .illegalRunning
  | .cmd bytes :: _, false => fetchRecord s.cfg bytes
  | _, false => .idle

/-- The host's input this step uses up: a `wait`, or the record that is accepted; a record presented while
`BUSY = 1` stays on the port (I19). -/
def State.tick (s : State) : State :=
  match s.world.host, s.busy with
  | .wait :: t, _ => { s with world := { s.world with host := t } }
  | .cmd _ :: t, false => { s with world := { s.world with host := t } }
  | _, _ => s

/-- Reset (R30, R31, R220): every element at its reset value, a running command abandoned without a record,
nothing done on the transport. The configuration stays (R28), and so does everything outside the block. -/
def State.applyReset (s : State) : State :=
  { State.resetWith s.cfg with world := { s.world with host := s.world.host.tail } }

/-- A record with an unlisted `op` is accepted and completed with `InvalidArgument` (R96). -/
def State.acceptIllegal (op : Byte) (s : State) : State := (s.accept { op := op }).fail .invalidArgument

/-- The rest of such a command: the delivery of its record. -/
def State.illegalStep (s : State) : Result := s.resume State.noCall

/-- Place the row with the table's bits `w` where the next step takes it: a command's record on the CMD port
of an idle block, or the state of a running command whose next step carries the wire row. -/
def State.placeTableWord (s : State) (nbits w : Nat) : State :=
  match tableChannel nbits with
  | .cmd =>
    { s with busy := false, hung := false, done := none
             world := { s.world with
               host := .cmd (bytesOfWord (nbits / 8) w ++ tablePadding .cmd) :: s.world.host } }
  | _ =>
    match decodeTableWord nbits w with
    | some i =>
      let t := s.placeWire i
      { t with world := { t.world with host := .wait :: t.world.host } }
    | none => s

end Sys2Proof.Machine
end

