-- ==== Sys2Proof/Machine/Step.lean ====
section
/-! DEFINITION. One step of the block (D2 of 92: "One step of the block per transport or delay call, plus an
acceptance step and a completion step"). -/

namespace Sys2Proof.Machine

def step (s : State) : Host.Outcome State Fault Refusal :=
  match fetch s with
  | .reset => .next s.applyReset
  | .idle => .next s.tick
  | .run i => exec i s.tick
  | .illegal op => .next (s.tick.acceptIllegal op)
  | .illegalRunning => s.tick.illegalStep
  | .malformed => .refused .malformedRecord
  | .unpresentable => .refused .notPresentable

/-- The state whose next step runs the row with the table's bits `w`. -/
def State.withFetchWord (s : State) (nbits w : Nat) : State := s.placeTableWord nbits w

end Sys2Proof.Machine
end

