-- ==== Sys2Proof/Safety.lean ====
section
/-! DEFINITION. What claims about the machine use: runs of steps, the invariant of the states a run can be in, the
statuses each command can end with (R198), and the calls a well-behaved exchange makes. -/

namespace Sys2Proof

/-! ## Commands by their kind -/

/-- The 13 commands that make calls. -/
def Instr.calls : Instr → Bool
  | .fcXact .. | .i2cWrb .. | .i2cRdb .. | .i2cWrs .. | .i2cRds .. | .psuSend .. | .psuRecv .. | .psuCmd ..
  | .psuGetHwver | .psuCfgWdt _ | .psuSetV _ | .psuGetV | .psuMeasV => true
  | _ => false

/-- The seven pure commands (R221). -/
def Instr.pure (i : Instr) : Bool := decide (i.channel = .cmd) && !i.calls

/-- The five pure commands that write no buffer of the block. -/
def Instr.storesNothing : Instr → Bool
  | .fcParse .. | .voltEnc _ | .voltDec _ | .awEnc _ | .awDec .. => true
  | _ => false

/-- The three commands that are one transaction. -/
def Instr.oneTransaction : Instr → Bool
  | .fcXact .. | .i2cWrb .. | .i2cRdb .. => true
  | _ => false

/-- The two sequence commands of U2. -/
def Instr.sequence : Instr → Bool
  | .i2cWrs .. | .i2cRds .. => true
  | _ => false

/-- The eight commands of U3 that make calls. -/
def Instr.psuCalls : Instr → Bool
  | .psuSend .. | .psuRecv .. | .psuCmd .. | .psuGetHwver | .psuCfgWdt _ | .psuSetV _ | .psuGetV | .psuMeasV => true
  | _ => false

/-- The conditions of R194, "exactly these conditions and no others". -/
def Instr.badOperand : Instr → Bool
  | .fcBuild _ _ _ p => decide (250 < p.length)
  | .fcParse b _ n => decide (250 < n.toNat) || decide (n.toNat + 3 < b.length)
  | .fcXact _ _ _ p n _ => decide (250 < p.length) || decide (250 < n.toNat)
  | .i2cWrs _ _ _ b => decide (257 < b.length)
  | .i2cRds _ _ _ c => decide (255 < c.toNat)
  | .psuBuild _ f => decide (251 < f.length)
  | .psuSend _ _ p => decide (257 < p.length)
  | .psuRecv _ (some c) => decide (255 < c.toNat)
  | .psuCmd _ f c => decide (251 < f.length) || decide (255 < (c.map (·.toNat)).getD 8)
  | .voltEnc mv => decide (mv.toNat < 11771) || decide (15098 < mv.toNat)
  | _ => false

end Sys2Proof

namespace Sys2Proof.Machine

/-! ## Runs -/

/-- `n` steps, stopping at the first fault or refusal. -/
def runSteps : Nat → State → Result
  | 0, s => .next s
  | n + 1, s =>
    match step s with
    | .next t => runSteps n t
    | .fault f => .fault f
    | .refused r => .refused r

/-- `n` steps of one instruction: its acceptance, its calls, its delivery. -/
def execRun (i : Instr) : Nat → State → Result
  | 0, s => .next s
  | n + 1, s =>
    match exec i s with
    | .next t => execRun i n t
    | .fault f => .fault f
    | .refused r => .refused r

/-! ## The invariant -/

/-- Every buffer is canonical and inside its size (R16, R17, R22, R24, R25). -/
def State.buffersOk (s : State) : Bool :=
  s.u1.txbuf.wf && s.u1.txbuf.within 256 && s.u1.rxbuf.wf && s.u1.rxbuf.within 253 &&
  s.u2.buf.wf && s.u2.buf.within 257 && s.u3.pkbuf.wf && s.u3.pkbuf.within 257 &&
  s.u3.rpbuf.wf && s.u3.rpbuf.within 255

/-- The bounds of the length and index registers (R16, R17, R18, R21, R24). -/
def State.lengthsOk (s : State) : Bool :=
  decide (s.u1.txlen.toNat = 0 ∨ 6 ≤ s.u1.txlen.toNat ∧ s.u1.txlen.toNat ≤ 256) &&
  decide (s.u1.expLen.toNat ≤ 250) && decide (s.u1.rxcnt.toNat ≤ s.u1.expLen.toNat + 3) &&
  decide (s.u2.idx.toNat ≤ s.u2.cnt.toNat) && decide (s.u2.cnt.toNat ≤ 257) &&
  decide (s.u3.pklen.toNat = 0 ∨ 6 ≤ s.u3.pklen.toNat ∧ s.u3.pklen.toNat ≤ 257)

/-- No unit is active. -/
def State.unitsIdle (s : State) : Bool :=
  decide (s.u1.phase = .idle) && decide (s.u2.phase = .idle) && decide (s.u3.phase = .idle)

/-- A transaction runs, as an element of a write sequence, of a read sequence, or alone. -/
def State.inXact (sq : SqPhase) (ps : PsPhase) (s : State) : Bool :=
  decide (s.u1.phase ≠ .idle) && decide (s.u2.phase = sq) && decide (s.u3.phase = ps) &&
  (decide (sq = .idle) || decide (s.u2.idx.toNat < s.u2.cnt.toNat)) &&
  (decide (sq ≠ .rd) || decide (s.u2.cnt.toNat ≤ 255))

/-- The settle delay is next (R154). -/
def State.settling (s : State) : Bool :=
  decide (s.u1.phase = .idle) && decide (s.u2.phase = .idle) && decide (s.u3.phase = .settle)

/-- Where the exchange with the PSU can be (R23, R154). -/
def State.inExchange (s : State) : Bool := s.inXact .wr .send || s.settling || s.inXact .rd .recv

/-- The phases a running command can be in while it has no result (R19, R20, R23). -/
def phasesOf : Option Instr → State → Bool
  | some (.fcXact ..), s => s.inXact .idle .idle
  | some (.i2cWrb ..), s => s.inXact .idle .idle
  | some (.i2cRdb ..), s => s.inXact .idle .idle
  | some (.i2cWrs ..), s => s.inXact .wr .idle
  | some (.i2cRds ..), s => s.inXact .rd .idle
  | some (.psuSend ..), s => s.inXact .wr .send
  | some (.psuRecv ..), s => s.inXact .rd .recv
  | some (.psuCmd ..), s => s.inExchange
  | some .psuGetHwver, s => s.inExchange
  | some (.psuCfgWdt _), s => s.inExchange
  | some (.psuSetV _), s => s.inExchange
  | some .psuGetV, s => s.inExchange
  | some .psuMeasV, s => s.inExchange
  | _, _ => false

/-- The table of R198: which command can end with which status. -/
def statusesOf : Option Instr → List Status
  | some (.fcBuild ..) => [.ok, .invalidArgument]
  | some (.fcParse ..) => [.ok, .shortRead, .noData, .idMismatch, .invalidArgument]
  | some (.fcXact ..) => [.ok, .shortRead, .noData, .idMismatch, .invalidArgument]
  | some (.i2cWrb ..) => [.ok, .shortRead, .noData, .idMismatch]
  | some (.i2cRdb ..) => [.ok, .shortRead, .noData, .idMismatch]
  | some (.i2cWrs ..) => [.ok, .shortRead, .noData, .idMismatch, .invalidArgument]
  | some (.i2cRds ..) => [.ok, .shortRead, .noData, .idMismatch, .invalidArgument]
  | some (.psuBuild ..) => [.ok, .invalidArgument]
  | some (.psuSend ..) => [.ok, .invalidArgument, .commandSendFailed]
  | some (.psuRecv ..) => [.ok, .invalidArgument, .replyIncomplete]
  | some (.psuCmd ..) => [.ok, .invalidArgument, .commandSendFailed, .replyIncomplete]
  | some .psuGetHwver => [.ok, .commandSendFailed, .replyIncomplete]
  | some (.psuCfgWdt _) => [.ok, .commandSendFailed, .replyIncomplete]
  | some (.psuSetV _) => [.ok, .commandSendFailed, .replyIncomplete]
  | some .psuGetV => [.ok, .commandSendFailed, .replyIncomplete]
  | some .psuMeasV => [.ok, .commandSendFailed, .replyIncomplete]
  | some (.voltEnc _) => [.ok, .invalidArgument]
  | some (.voltDec _) => [.ok]
  | some (.awEnc _) => [.ok]
  | some (.awDec ..) => [.ok, .lengthMismatch]
  | some _ => []
  | none => [.invalidArgument]

/-- A result the running command can have: its status is one of R198's, and "`data` is present only when
`status = OK`" (R12). -/
def State.resultOk (r : Rsp) (s : State) : Bool :=
  decide (r.status ∈ statusesOf s.latch.instr) && (decide (r.status = .ok) || decide (r.data = .none))

/-- The running command passed the operand checks of its acceptance (R194). -/
def State.operandsOk (s : State) : Bool := s.latch.instr.all fun i => !i.badOperand

/-- The control state: idle, waiting for delivery, or in the phases of the running command. -/
def State.controlOk (s : State) : Bool :=
  if s.busy then
    match s.done with
    | some r => !s.hung && s.unitsIdle && s.resultOk r
    | none => phasesOf s.latch.instr s && s.operandsOk
  else s.done.isNone && !s.hung && s.unitsIdle

/-- The six fixed bytes of a request frame with this transaction id (R70 to R74). -/
def isFrame (id : Byte) (f : List Byte) : Bool :=
  decide (6 ≤ f.length) && decide (f.length ≤ 256) && decide ((f.getD 0 0).toNat = f.length - 2) &&
  f.getD 1 1 == 0 && f.getD 2 0 == id && f.getD 3 1 == 0

/-- While a request is still to be sent, `TXBUF[0 .. TXLEN)` is a frame with the id `EXP_TXID` (R16, R18). -/
def State.frameOk (s : State) : Bool :=
  (!decide (s.u1.phase = .flush) && !decide (s.u1.phase = .send)) || isFrame s.u1.expTxid s.txFrame

/-- The invariant: what holds in every state a run can be in. -/
structure State.Inv (s : State) : Prop where
  buffers : s.buffersOk = true
  lengths : s.lengthsOk = true
  control : s.controlOk = true
  frame : s.frameOk = true
  /-- "Codes 9 to 15 are never produced" (R190), and code 8 never (R197). -/
  status : s.status.toNat ≤ 7

/-- The command in the latch is `i`, and it runs, not stuck, without a result: its next step is a call. -/
def State.runs (i : Instr) (s : State) : Prop :=
  s.busy = true ∧ s.latch.instr = some i ∧ s.hung = false ∧ s.done = none

/-- The block is idle: nothing runs, every phase is idle (R200, R201). -/
def State.idle (s : State) : Prop :=
  s.busy = false ∧ s.done = none ∧ s.hung = false ∧ s.unitsIdle = true

/-! ## What a step is claimed to do, written out -/

/-- The check of a response (R113), as the result record of a command whose data is `d` of the payload. -/
def responseCheck (r : List Byte) (id : Byte) (n : Nat) (d : List Byte → Data) : Rsp :=
  if r = [] then { status := .noData, data := .none }
  else if r.length < n + 3 then { status := .shortRead, data := .none }
  else if r.getD 2 0 ≠ id then { status := .idMismatch, data := .none }
  else { status := .ok, data := d (r.drop 3) }

/-- The record of `i` is in the latch, `BUSY` is 1 and the acceptance is in the history (R11). -/
def State.accepted (i : Instr) (s : State) : State :=
  { s with busy := true, latch := latchOf i, world := { s.world with hist := s.world.hist ++ [.cmd (latchOf i)] } }

/-- The command is over with this record, which waits for delivery; every phase is idle (R200). -/
def State.withResult (r : Rsp) (s : State) : State :=
  { s with done := some r
           u1 := { s.u1 with phase := .idle }
           u2 := { s.u2 with phase := .idle }
           u3 := { s.u3 with phase := .idle } }

/-- A transaction with this frame is about to begin: `TXBUF`, `TXLEN`, `EXP_TXID`, `EXP_LEN`, `RXCNT` and the phase
(R16, R18, R19, R115). -/
def State.awaiting (flush : Bool) (frame : List Byte) (txid : Byte) (n : Nat) (s : State) : State :=
  { s with u1 := { s.u1 with
      phase := if flush then .flush else .send
      txbuf := s.u1.txbuf.writeList 0 frame
      txlen := BitVec.ofNat 9 frame.length
      expTxid := txid
      expLen := BitVec.ofNat 8 n
      rxcnt := 0 } }

/-- One call has returned: its event, and the input buffer after it. -/
def State.afterCall (e : Event) (rx : List Byte) (s : State) : State :=
  { s with world := { s.world with env := s.world.env.tail, calls := s.world.calls + 1, rxIn := rx,
                                   hist := s.world.hist ++ [e] } }

/-- The bytes an `RxRead(n)` returns when `arrived` has reached the input buffer: the oldest `n` (R48). -/
def State.readable (arrived : List Byte) (s : State) : List Byte :=
  (s.world.rxIn ++ arrived).take (s.u1.expLen.toNat + 3)

/-- The read of a transaction has returned: its bytes are in `RXBUF` and out of the input buffer (R17, R48). -/
def State.afterRead (arrived : List Byte) (s : State) : State :=
  let t := s.afterCall (.read (s.u1.expLen.toNat + 3) (s.readable arrived))
    ((s.world.rxIn ++ arrived).drop (s.u1.expLen.toNat + 3))
  { t with u1 := { s.u1 with
      phase := .idle
      rxbuf := s.u1.rxbuf.writeList 0 (s.readable arrived)
      rxcnt := BitVec.ofNat 8 (s.readable arrived).length } }

/-- The three transport calls and the delay (R63). -/
def Event.isCall : Event → Bool
  | .flush | .write _ | .read .. | .delay _ => true
  | .cmd _ | .rsp _ => false

/-- The next step of the host is no reset. -/
def State.noReset (s : State) : Prop := s.world.host.head? ≠ some .reset

/-! ## What a command leaves alone -/

/-- What no command changes, and what only acceptance and delivery change (R11, R12, R14, R15, R28). -/
structure FrameTop (i : Instr) (s t : State) : Prop where
  cfg : t.cfg = s.cfg
  host : t.world.host = s.world.host
  latch : t.latch = s.latch ∨ s.busy = false ∧ t.latch = latchOf i
  busy : t.busy = s.busy ∨ s.busy = false ∧ t.busy = true ∨ s.done.isSome ∧ t.busy = false
  status : t.status = s.status ∨ ∃ r, s.done = some r ∧ t.busy = false ∧ t.status = r.status.code

/-- `U1` is as it was, but for its phase, which can only have become idle. -/
structure SameU1 (s t : State) : Prop where
  phase : t.u1.phase = s.u1.phase ∨ t.u1.phase = .idle
  txlen : t.u1.txlen = s.u1.txlen
  rxcnt : t.u1.rxcnt = s.u1.rxcnt
  expTxid : t.u1.expTxid = s.u1.expTxid
  expLen : t.u1.expLen = s.u1.expLen
  txbuf : ∀ a, t.u1.txbuf.read a = s.u1.txbuf.read a
  rxbuf : ∀ a, t.u1.rxbuf.read a = s.u1.rxbuf.read a

/-- `U2` is as it was, but for its phase, which can only have become idle. -/
structure SameU2 (s t : State) : Prop where
  phase : t.u2.phase = s.u2.phase ∨ t.u2.phase = .idle
  idx : t.u2.idx = s.u2.idx
  cnt : t.u2.cnt = s.u2.cnt
  buf : ∀ a, t.u2.buf.read a = s.u2.buf.read a

/-- `U3` is as it was, but for its phase, which can only have become idle. -/
structure SameU3 (s t : State) : Prop where
  phase : t.u3.phase = s.u3.phase ∨ t.u3.phase = .idle
  pklen : t.u3.pklen = s.u3.pklen
  rplen : t.u3.rplen = s.u3.rplen
  pkbuf : ∀ a, t.u3.pkbuf.read a = s.u3.pkbuf.read a
  rpbuf : ∀ a, t.u3.rpbuf.read a = s.u3.rpbuf.read a

/-- The bytes of `TXBUF` outside the frame written, and of `RXBUF` outside the bytes the step reads. -/
structure OutsideU1 (s t : State) : Prop where
  txbuf : ∀ a, t.u1.txlen.toNat ≤ a → t.u1.txbuf.read a = s.u1.txbuf.read a
  rxbuf : ∀ a, s.u1.expLen.toNat + 3 ≤ a → t.u1.rxbuf.read a = s.u1.rxbuf.read a

/-- The bytes of `SQBUF` outside the list copied at acceptance and, later, but for the element just read. -/
structure OutsideU2 (s t : State) : Prop where
  copied : ∀ a, s.busy = false → t.u2.cnt.toNat ≤ a → t.u2.buf.read a = s.u2.buf.read a
  element : ∀ a, s.busy = true → a ≠ s.u2.idx.toNat → t.u2.buf.read a = s.u2.buf.read a

/-- The bytes of `PKBUF` outside the packet written at acceptance, and of `RPBUF` outside the reply. -/
structure OutsideU3 (s t : State) : Prop where
  packet : ∀ a, t.u3.pklen.toNat ≤ a → t.u3.pkbuf.read a = s.u3.pkbuf.read a
  running : ∀ a, s.busy = true → t.u3.pkbuf.read a = s.u3.pkbuf.read a
  reply : ∀ a, t.u3.rplen.toNat ≤ a → t.u3.rpbuf.read a = s.u3.rpbuf.read a

/-- The elements R30 gives a value after reset, at that value. -/
structure State.AtReset (s : State) : Prop where
  busy : s.busy = false
  status : s.status = 0
  fcPhase : s.u1.phase = .idle
  txlen : s.u1.txlen = 0
  rxcnt : s.u1.rxcnt = 0
  expLen : s.u1.expLen = 0
  sqPhase : s.u2.phase = .idle
  idx : s.u2.idx = 0
  cnt : s.u2.cnt = 0
  psPhase : s.u3.phase = .idle
  pklen : s.u3.pklen = 0
  rplen : s.u3.rplen = 0

/-! ## The events and replies of a well-behaved exchange -/

/-- The replies to the calls of one transaction whose response is `r`. -/
def xactReplies (flush : Bool) (r : List Byte) : List EnvReply :=
  (if flush then [.returns []] else []) ++ [.returns [], .returns r]

/-- The events of one transaction (R56, R63, R115). -/
def xactEvents (flush : Bool) (frame r : List Byte) (n : Nat) : List Event :=
  (if flush then [.flush] else []) ++ [.write frame, .read n r]

/-- The number of calls of one transaction (R230). -/
def xactCalls (flush : Bool) : Nat := if flush then 3 else 2

/-- A four-byte response with this transaction id (R83): what an I2C transaction needs. -/
def goodResponse (id : Byte) (r : List Byte) : Prop := r.length = 4 ∧ r.getD 2 0 = id

/-- The frame of an I2C write (R80). -/
def writeFrame (c : Config) (page addr reg value : Byte) : List Byte :=
  buildFrame page 0x20 0xBC (wrPayload c addr reg value)

/-- The frame of an I2C read (R81). -/
def readFrame (c : Config) (page addr : Byte) (reg : Option Byte) : List Byte :=
  match reg with
  | none => buildFrame page 0x30 0xAB (rdPayload c addr)
  | some r => buildFrame page 0x40 0xAB (rwPayload c addr r)

/-- The events of a write sequence whose elements are answered by `rs` (R134). -/
def writeSeqEvents (c : Config) (page addr reg : Byte) (b : List Byte) (rs : List (List Byte)) : List Event :=
  (List.zipWith (fun v r => xactEvents c.flushBeforeWrite (writeFrame c page addr reg v) r 4) b rs).flatten

/-- The events of a read sequence whose elements are answered by `rs` (R135). -/
def readSeqEvents (c : Config) (page addr : Byte) (reg : Option Byte) (rs : List (List Byte)) : List Event :=
  (rs.map fun r => xactEvents true (readFrame c page addr reg) r 4).flatten

/-- The data bytes of the responses to a read sequence: offset 3 of each (R83). -/
def dataBytes (rs : List (List Byte)) : List Byte := rs.map (·.getD 3 0)

/-- The replies to the calls of a sequence whose responses are `rs`. -/
def seqReplies (flush : Bool) (rs : List (List Byte)) : List EnvReply := (rs.map (xactReplies flush)).flatten

/-- Opcode, fields and reply length of the exchange a command makes (R155 to R160). -/
def exchangeOf : Instr → Option (Byte × List Byte × Nat)
  | .psuCmd opcode fields count => some (opcode, fields, (count.map (·.toNat)).getD 8)
  | .psuGetHwver => some (0x02, [], 8)
  | .psuCfgWdt enableFlag => some (0x81, [enableFlag, 0x00], 8)
  | .psuSetV hexVoltage => some (0x83, [hexVoltage, 0x00], 8)
  | .psuGetV => some (0x03, [], 8)
  | .psuMeasV => some (0x04, [], 8)
  | _ => none

/-- What a command that collects reply bytes makes of them: the voltage of PSU_GET_V (R159, R161), the raw value of
PSU_MEAS_V (R160, R163), the bytes themselves for every other one. -/
def replyData : Instr → List Byte → Data
  | .psuGetV, b => .num (BitVec.ofNat 16 (15092 - 13 * (b.getD 4 0).toNat))
  | .psuMeasV, b => .num (BitVec.ofNat 16 ((b.getD 4 0).toNat + 256 * (b.getD 5 0).toNat))
  | _, b => .bytes b

/-- Page, device address and register of a command's write sequence (R134, R152, R154). -/
def writeSeqOf (c : Config) : Instr → Option (Byte × Byte × Byte)
  | .i2cWrs page addr reg _ => some (page, addr, reg)
  | .psuSend addr reg _ => some (c.psuPage, addr, reg)
  | i => (exchangeOf i).map fun _ => (c.psuPage, c.psuAddr, c.psuReg)

/-- Page, device address and register, if one is given, of a command's read sequence (R135, R153, R154). -/
def readSeqOf (c : Config) : Instr → Option (Byte × Byte × Option Byte)
  | .i2cRds page addr reg _ => some (page, addr, reg)
  | .psuRecv addr _ => some (c.psuPage, addr, none)
  | i => (exchangeOf i).map fun _ => (c.psuPage, c.psuAddr, none)

/-- The status of a command whose write sequence fails with `e`: I2C_WRS gives the element's own (R134), the PSU
commands `CommandSendFailed` (R152, R166). -/
def writeFailure (i : Instr) (e : Status) : Status :=
  match i with
  | .i2cWrs .. => e
  | _ => .commandSendFailed

/-- The status of a command whose read sequence fails with `e` (R135, R153, R166). -/
def readFailure (i : Instr) (e : Status) : Status :=
  match i with
  | .i2cRds .. => e
  | _ => .replyIncomplete

end Sys2Proof.Machine
end

