-- ==== Sys2Proof/Certificates/Slice0/Obligations.lean ====
section
/-! DEFINITION. The statements for the provers. Each names the rules of spec/ it formalises; the words `DESIGN CHOICE`
and a log entry mark what is the model's own. -/

open Sys2Proof Sys2Proof.Machine

/-! ## Encoding -/

/-- Byte lists written out from the layouts of R70, R76, R85, R92 and the op codes of R96 decode to the rows they stand
for. How operands follow an `op` byte is the model's own (log 11). -/
def Obligations.SampleWordsDecode : Prop :=
  decode .cmd [0x01, 0x05, 0x20, 0xBC, 0x03, 0x00, 0x48, 0x01, 0x60] =
    .ok (.fcBuild 0x05 0x20 0xBC [0x48, 0x01, 0x60]) [] ∧
  decode .cmd [0x29, 0xE0, 0x2E] = .ok (.voltEnc 0x2EE0) [] ∧
  decode .cmd [0x99] = .error (.illegalOp 0x99) ∧
  decode .outbound [0x07, 0x00, 0xBC, 0x00, 0x05, 0x20, 0x48, 0x01, 0x60] =
    .ok (.frameI2cWrite 0x07 0xBC 0x05 [0x48, 0x01, 0x60]) [] ∧
  decode .outbound [0x06, 0x00, 0xAB, 0x00, 0x05, 0x30, 0x48, 0x01] =
    .ok (.frameI2cRead 0x06 0xAB 0x05 [0x48, 0x01]) [] ∧
  decode .outbound [0x55, 0xAA, 0x06, 0x83, 0xFF, 0x00, 0x88, 0x01] = .ok (.psuPktSetV 0xFF 0x88 0x01) [] ∧
  decode .inbound [0x00, 0x00, 0xAB, 0x19] = .ok (.response 0x00 0x00 0xAB [0x19]) [] ∧
  decode .asic [0xA5, 0x01] = .ok (.asicPair 0xA5 true) []

/-- Decoding the bytes of a well-formed row gives the row back, with every operand at every value, and leaves the bytes
after it. A response has no length field (R78), so nothing follows it. -/
def Obligations.EncodeThenDecode : Prop :=
  ∀ (maxWords : Nat) (i : Instr) (rest : List Byte),
    i.wf maxWords = true → (i.channel = .inbound → rest = []) →
    decode i.channel (encode i ++ rest) = .ok i rest

/-- The other direction for the byte lists on the wire: the decoder drops no bit of them. -/
def Obligations.WireDecodeThenEncode : Prop :=
  ∀ (c : Channel) (bytes rest : List Byte) (i : Instr),
    c ≠ .cmd → decode c bytes = .ok i rest → i.channel = c ∧ encode i ++ rest = bytes

/-- R96: the 20 codes, and what becomes of any other one: it is accepted and completed at once with `InvalidArgument`,
without a transport call. The codes are the spec's own choice (D3). That the record of an unlisted code, in the event
`Cmd(record)`, is zero in every field but `op` is the model's choice (log 12). -/
def Obligations.OpCodesAndIllegalOps : Prop :=
  (∀ i : Instr, i.channel = .cmd → (encode i).head? = some (latchOf i).op) ∧
  (∀ (p c t n : Byte) (l : List Byte) (fl : Bool) (o : Option Byte) (k : Half) (q : Option Half) (w : List Half),
    ([Instr.fcBuild p c t l, .fcParse l t n, .fcXact p c t l n fl, .i2cWrb p c t n o, .i2cRdb p c o o,
      .i2cWrs p c t l, .i2cRds p c o k, .psuBuild p l, .psuSend p c l, .psuRecv p q, .psuCmd p l q, .psuGetHwver,
      .psuCfgWdt p, .psuSetV p, .psuGetV, .psuMeasV, .voltEnc k, .voltDec p, .awEnc w, .awDec l q].map
      fun i => (latchOf i).op) =
    [0x01, 0x02, 0x03, 0x10, 0x11, 0x12, 0x13, 0x20, 0x21, 0x22, 0x23, 0x24, 0x25, 0x26, 0x27, 0x28, 0x29, 0x2A,
      0x30, 0x31]) ∧
  (∀ (op : Byte) (bytes : List Byte) (later : List HostInput) (s : State),
    op ∉ ([0x01, 0x02, 0x03, 0x10, 0x11, 0x12, 0x13, 0x20, 0x21, 0x22, 0x23, 0x24, 0x25, 0x26, 0x27, 0x28, 0x29,
      0x2A, 0x30, 0x31] : List Byte) →
    s.idle → s.world.host = .cmd (op :: bytes) :: later → later.head? ≠ some .reset →
    ∃ t u, step s = .next t ∧ step t = .next u ∧ t.busy = true ∧ t.latch.op = op ∧ u.idle ∧ u.status = 5 ∧
      u.u1 = s.u1 ∧ u.u2 = s.u2 ∧ u.u3 = s.u3 ∧ u.world.env = s.world.env ∧ u.world.calls = s.world.calls ∧
      u.world.rxIn = s.world.rxIn ∧
      u.world.hist = s.world.hist ++ [.cmd { op := op }, .rsp { status := .invalidArgument, data := .none }])

/-! ## A step -/

/-- A step runs the decoded command. While `BUSY = 0` it takes the record on the CMD port and is `exec` of the command
decoded from it, the record taken off the port (R11); while `BUSY = 1` it is `exec` of the command in the latch,
whatever is presented on the port (R11, R13, R15). The model's choices: the byte form of a record on the port (log 11);
the host's inputs as a list, of which a record presented while `BUSY = 1` stays and a `wait` is used up (log 5). -/
def Obligations.StepRunsTheCommand : Prop :=
  (∀ (s : State) (bytes rest : List Byte) (later : List HostInput) (i : Instr),
    s.busy = false → s.world.host = .cmd bytes :: later → decode .cmd bytes = .ok i rest →
    i.wf s.cfg.maxWords = true →
    step s = exec i { s with world := { s.world with host := later } }) ∧
  (∀ (s : State) (i : Instr), s.busy = true → s.latch.instr = some i →
    (s.world.host = [] → step s = exec i s) ∧
    (∀ bytes later, s.world.host = .cmd bytes :: later → step s = exec i s) ∧
    (∀ later, s.world.host = .wait :: later → step s = exec i { s with world := { s.world with host := later } }))

/-- R11: acceptance copies the whole record into the latch and sets `BUSY`, in one step, and nothing else is done
outside the block; while `BUSY = 1` the port accepts nothing, and the latch cannot change. That a field the command
does not use is zero in the record is the model's choice (log 12). -/
def Obligations.AcceptanceLatchesRecord : Prop :=
  (∀ (i : Instr) (s : State), i.channel = .cmd → s.busy = false →
    ∃ t, exec i s = .next t ∧ t.busy = true ∧ t.latch = latchOf i ∧ t.latch.instr = some i ∧ t.status = s.status ∧
      t.cfg = s.cfg ∧ t.world = { s.world with hist := s.world.hist ++ [.cmd (latchOf i)] }) ∧
  (∀ (i : Instr) (s : State), i.channel = .cmd → s.busy = true → s.latch.instr ≠ some i → exec i s = .next s) ∧
  (∀ (s t : State) (bytes : List Byte) (later : List HostInput), s.busy = true →
    s.world.host = .cmd bytes :: later → step s = .next t → t.world.host = s.world.host ∧ t.latch = s.latch)

/-- R12: delivering the record, writing `STATUS` and clearing `BUSY` are one step; `data` is present only with `OK`. -/
def Obligations.DeliveryIsOneStep : Prop :=
  ∀ (i : Instr) (s : State) (r : Rsp), i.channel = .cmd → s.busy = true → s.latch.instr = some i →
    s.hung = false → s.done = some r →
    exec i s = .next { s with busy := false, status := r.status.code, done := none,
                              world := { s.world with hist := s.world.hist ++ [.rsp r] } } ∧
    (s.Inv → r.status ≠ .ok → r.data = .none)

/-- R13, R56 and the history of R63 (which the spec marks as derived): a step makes at most one event, and which one it
is fits what becomes of `BUSY`. That acceptance and delivery are steps of their own is D2 (log 8). -/
def Obligations.OneEventPerStep : Prop :=
  ∀ s t : State, s.noReset → step s = .next t →
    (t.world.hist = s.world.hist ∧ t.busy = s.busy) ∨
    (s.busy = false ∧ t.busy = true ∧ t.world.hist = s.world.hist ++ [.cmd t.latch]) ∨
    (s.busy = true ∧ t.busy = true ∧ ∃ e, e.isCall = true ∧ t.world.hist = s.world.hist ++ [e]) ∨
    (s.busy = true ∧ t.busy = false ∧
      ∃ r, s.done = some r ∧ t.world.hist = s.world.hist ++ [.rsp r] ∧ t.status = r.status.code)

/-- R14: `STATUS` is written only by the step of R12 and by reset, and no rule of the block reads it. -/
def Obligations.StatusWrittenNotRead : Prop :=
  (∀ s t : State, step s = .next t → t.status = s.status ∨
    (∃ r, s.busy = true ∧ t.busy = false ∧ t.world.hist = s.world.hist ++ [.rsp r] ∧ t.status = r.status.code) ∨
    (s.world.host.head? = some .reset ∧ t.status = 0)) ∧
  (∀ (s t : State) (x : BitVec 4), step s = .next t →
    step { s with status := x } = .next t ∨ step { s with status := x } = .next { t with status := x })

/-- R28: no step writes the configuration, reset included. That it stands in `State` is the model's choice (log 3). -/
def Obligations.ConfigurationIsConstant : Prop :=
  (∀ s t : State, step s = .next t → t.cfg = s.cfg) ∧
  (∀ (i : Instr) (s t : State), exec i s = .next t → t.cfg = s.cfg)

/-- R30, R31, R220: reset puts every element R30 gives a value to at that value, keeps the configuration, abandons a
running command without a record and does nothing on the transport; the state after reset has those values, with the
defaults of R4; and an idle block does nothing until a command is accepted. -/
def Obligations.ResetAndIdle : Prop :=
  (∀ (s : State) (later : List HostInput), s.world.host = .reset :: later →
    ∃ t, step s = .next t ∧ t.AtReset ∧ t.idle ∧ t.cfg = s.cfg ∧
      t.world = { s.world with host := later }) ∧
  State.reset.AtReset ∧ State.reset.idle ∧ State.reset.cfg.flushBeforeWrite = true ∧
  State.reset.cfg.psuPage = 0x04 ∧ State.reset.cfg.wrLayout = .defaultWr ∧
  State.reset.cfg.rdLayout = .defaultRd ∧ State.reset.cfg.rwLayout = .defaultRw ∧
  (∀ s : State, s.busy = false → s.world.host = [] → step s = .next s)

/-! ## Transport and delay calls -/

/-- R47: `RxFlush` discards every byte that has arrived and not been read; one call is one step and one event. Bytes
that arrive during a call come before its effect: the model's choice (log 6), here and in the next statements. -/
def Obligations.FlushStep : Prop :=
  ∀ (i : Instr) (s : State) (arrived : List Byte), i.calls = true → s.runs i → s.inBounds = true →
    s.u1.phase = .flush → s.reply = .returns arrived →
    exec i s = .next { s.afterCall .flush [] with u1 := { s.u1 with phase := .send } }

/-- R46: `TxWrite` hands `TXBUF[0 .. TXLEN)` to the transport; one call is one step and one event. -/
def Obligations.WriteStep : Prop :=
  ∀ (i : Instr) (s : State) (arrived : List Byte), i.calls = true → s.runs i → s.inBounds = true →
    s.u1.phase = .send → s.reply = .returns arrived →
    exec i s = .next { s.afterCall (.write (s.u1.txbuf.readList 0 s.u1.txlen.toNat)) (s.world.rxIn ++ arrived) with
                       u1 := { s.u1 with phase := .recv } }

/-- R48, R17: `RxRead(n)` with `n = EXP_LEN + 3` takes the oldest bytes, at most `n`, and leaves the others; they go to
`RXBUF`, their number to `RXCNT`, which the next transaction of a sequence sets to 0 again in the same step. -/
def Obligations.ReadStep : Prop :=
  ∀ (i : Instr) (s : State) (arrived : List Byte), i.calls = true → s.runs i → s.inBounds = true →
    s.u1.phase = .recv → s.reply = .returns arrived →
    ∃ t, exec i s = .next t ∧
      (s.readable arrived).length ≤ s.u1.expLen.toNat + 3 ∧
      s.readable arrived ++ t.world.rxIn = s.world.rxIn ++ arrived ∧
      ((s.readable arrived).length < s.u1.expLen.toNat + 3 → t.world.rxIn = []) ∧
      t.world.hist = s.world.hist ++ [.read (s.u1.expLen.toNat + 3) (s.readable arrived)] ∧
      t.world.calls = s.world.calls + 1 ∧ t.world.env = s.world.env.tail ∧
      t.u1.rxbuf = s.u1.rxbuf.writeList 0 (s.readable arrived) ∧
      (t.u1.phase = .idle → t.u1.rxcnt.toNat = (s.readable arrived).length) ∧
      (t.u1.phase ≠ .idle → t.u1.rxcnt = 0)

/-- R50, R154: the settle delay is one step and one event, no byte is sent or read, and the first read of the reply
comes after it; with a reply of no bytes the command is over. -/
def Obligations.DelayStep : Prop :=
  ∀ (i : Instr) (opcode : Byte) (fields : List Byte) (c : Nat) (s : State) (arrived : List Byte),
    exchangeOf i = some (opcode, fields, c) → c ≤ 255 → s.runs i → s.inBounds = true →
    s.u1.phase = .idle → s.u2.phase = .idle → s.u3.phase = .settle → s.reply = .returns arrived →
    let t := s.afterCall (.delay s.cfg.settleDelay) (s.world.rxIn ++ arrived)
    (0 < c → exec i s = .next
      (State.awaiting true (readFrame s.cfg s.cfg.psuPage s.cfg.psuAddr none) 0xAB 1
        { t with u2 := { s.u2 with phase := .rd, idx := 0, cnt := BitVec.ofNat 9 c }
                 u3 := { s.u3 with phase := .recv } })) ∧
    (c = 0 → exec i s = .next
      (State.withResult { status := .ok, data := replyData i [] }
        { t with u2 := { s.u2 with idx := 0, cnt := 0 }
                 u3 := { s.u3 with rplen := 0 } }))

/-- R207: a call that never returns leaves the block stuck, with `BUSY = 1` and no result; only reset ends it; and
nothing else makes it stuck. The model's choice (log 9): that such a call leaves no event, and that a stuck block keeps
every element, the transport's input buffer included. -/
def Obligations.StuckCall : Prop :=
  (∀ (i : Instr) (s : State), i.calls = true → s.runs i → s.Inv → s.reply = .never →
    ∃ t, exec i s = .next t ∧ t.hung = true ∧ t.busy = true ∧ t.done = none ∧ t.world.hist = s.world.hist) ∧
  (∀ s t : State, s.busy = true → s.hung = true → s.noReset → step s = .next t →
    t = { s with world := { s.world with host := t.world.host } }) ∧
  (∀ s t : State, s.hung = false → t.hung = true → step s = .next t → s.reply = .never ∧ s.busy = true) ∧
  (∀ (s : State) (later : List HostInput), s.world.host = .reset :: later →
    ∃ t, step s = .next t ∧ t.hung = false ∧ t.busy = false)

/-! ## U1: frames, responses, one transaction -/

/-- FC_BUILD (R110, R111): the frame in `TXBUF`, its length in `TXLEN`, the frame as data; over 250 bytes
`InvalidArgument`. No transport call. -/
def Obligations.FcBuild : Prop :=
  ∀ (page command txid : Byte) (payload : List Byte) (s : State), s.busy = false → s.u1.txbuf.wf = true →
    let i := Instr.fcBuild page command txid payload
    let frame := [BitVec.ofNat 8 (payload.length + 4), 0x00, txid, 0x00, page, command] ++ payload
    (latchOf i).op = 0x01 ∧
    (payload.length ≤ 250 →
      exec i s = .next (State.withResult { status := .ok, data := .bytes frame }
        { s.accepted i with u1 := { s.u1 with txbuf := s.u1.txbuf.writeList 0 frame
                                              txlen := BitVec.ofNat 9 (payload.length + 6) } })) ∧
    (250 < payload.length →
      exec i s = .next ((s.accepted i).withResult { status := .invalidArgument, data := .none }))

/-- FC_PARSE (R112, R113): the operand checks, then the three checks of a response in their order; no transport call.
-/
def Obligations.FcParse : Prop :=
  ∀ (bytes : List Byte) (expTxid expLen : Byte) (s : State), s.busy = false →
    let i := Instr.fcParse bytes expTxid expLen
    (latchOf i).op = 0x02 ∧
    exec i s = .next ((s.accepted i).withResult
      (if 250 < expLen.toNat then { status := .invalidArgument, data := .none }
       else if expLen.toNat + 3 < bytes.length then { status := .invalidArgument, data := .none }
       else if bytes.length = 0 then { status := .noData, data := .none }
       else if bytes.length < expLen.toNat + 3 then { status := .shortRead, data := .none }
       else if bytes.getD 2 0 ≠ expTxid then { status := .idMismatch, data := .none }
       else { status := .ok, data := .bytes (bytes.drop 3) }))

/-- R77: the bytes of a response at offsets 0 and 1 are not looked at, by FC_PARSE and by the read of a transaction. -/
def Obligations.ResponseHeadIgnored : Prop :=
  (∀ (a b c d : Byte) (tail : List Byte) (expTxid expLen : Byte) (s t : State), s.busy = false →
    exec (.fcParse (a :: b :: tail) expTxid expLen) s = .next t →
    ∃ u, exec (.fcParse (c :: d :: tail) expTxid expLen) s = .next u ∧ u.done = t.done) ∧
  (∀ (i : Instr) (a b c d : Byte) (tail : List Byte) (s t : State), i.calls = true → s.runs i → s.world.rxIn = [] →
    s.u1.phase = .recv → s.reply = .returns (a :: b :: tail) → exec i s = .next t →
    ∃ u, exec i { s with world := { s.world with env := .returns (c :: d :: tail) :: s.world.env.tail } } = .next u ∧
      u.done = t.done ∧ u.u2 = t.u2 ∧ u.u3 = t.u3 ∧ u.u1.phase = t.u1.phase ∧ u.u1.txbuf = t.u1.txbuf)

/-- The start of the three one-transaction commands (R82, R115, R116, R130, R131, R132, R133): the default
payload layouts, each function by itself; frame, expectations and the phase of the first call; `InvalidArgument` for
FC_XACT's bounds. That a layout's result over 250 bytes is cut, so that none has more, is the model's choice (log 4). -/
def Obligations.TransactionStarts : Prop :=
  (∀ (c : Config) (a r v : Byte),
    (c.wrLayout = .defaultWr → wrPayload c a r v = [a, r, v]) ∧
    (c.rdLayout = .defaultRd → rdPayload c a = [a, 0x01]) ∧
    (c.rwLayout = .defaultRw → rwPayload c a r = [a, r, 0x01])) ∧
  (∀ (c : Config) (a r v : Byte), (wrPayload c a r v).length ≤ 250 ∧ (rdPayload c a).length ≤ 250 ∧
    (rwPayload c a r).length ≤ 250) ∧
  ∀ s : State, s.busy = false →
    (∀ (page command txid : Byte) (payload : List Byte) (expLen : Byte) (flush : Bool),
      let i := Instr.fcXact page command txid payload expLen flush
      (payload.length ≤ 250 ∧ expLen.toNat ≤ 250 → exec i s = .next
        ((s.accepted i).awaiting flush (buildFrame page command txid payload) txid expLen.toNat)) ∧
      (250 < payload.length ∨ 250 < expLen.toNat →
        exec i s = .next ((s.accepted i).withResult { status := .invalidArgument, data := .none }))) ∧
    (∀ (page addr reg value : Byte) (txid : Option Byte),
      let i := Instr.i2cWrb page addr reg value txid
      exec i s = .next ((s.accepted i).awaiting s.cfg.flushBeforeWrite
        (buildFrame page 0x20 (txid.getD 0xBC) (wrPayload s.cfg addr reg value)) (txid.getD 0xBC) 1)) ∧
    (∀ (page addr : Byte) (txid : Option Byte),
      let i := Instr.i2cRdb page addr none txid
      exec i s = .next ((s.accepted i).awaiting true
        (buildFrame page 0x30 (txid.getD 0xAB) (rdPayload s.cfg addr)) (txid.getD 0xAB) 1)) ∧
    (∀ (page addr reg : Byte) (txid : Option Byte),
      let i := Instr.i2cRdb page addr (some reg) txid
      exec i s = .next ((s.accepted i).awaiting true
        (buildFrame page 0x40 (txid.getD 0xAB) (rwPayload s.cfg addr reg)) (txid.getD 0xAB) 1))

/-- The end of the three one-transaction commands (R113, R115, R116, R130, R131): the checks belong to the step of the
read, and the result is theirs. -/
def Obligations.TransactionEnds : Prop :=
  ∀ (s : State) (arrived : List Byte), s.inBounds = true → s.u1.phase = .recv → s.reply = .returns arrived →
    (∀ (page command txid : Byte) (payload : List Byte) (expLen : Byte) (flush : Bool),
      let i := Instr.fcXact page command txid payload expLen flush
      s.runs i → exec i s = .next ((s.afterRead arrived).withResult
        (responseCheck (s.readable arrived) s.u1.expTxid s.u1.expLen.toNat .bytes))) ∧
    (∀ (page addr reg value : Byte) (txid : Option Byte),
      let i := Instr.i2cWrb page addr reg value txid
      s.runs i → exec i s = .next ((s.afterRead arrived).withResult
        (responseCheck (s.readable arrived) s.u1.expTxid s.u1.expLen.toNat fun _ => .none))) ∧
    (∀ (page addr : Byte) (reg txid : Option Byte),
      let i := Instr.i2cRdb page addr reg txid
      s.runs i → exec i s = .next ((s.afterRead arrived).withResult
        (responseCheck (s.readable arrived) s.u1.expTxid s.u1.expLen.toNat fun p => .byte (p.getD 0 0))))

/-- FC_XACT as a whole (R113, R115, R116, R117): its calls in their order, each of them whatever the answers are, its
result and what is left in the input buffer, for any bytes that arrive during the calls. -/
def Obligations.FcXactRun : Prop :=
  ∀ (page command txid : Byte) (payload : List Byte) (expLen : Byte) (flush : Bool) (s : State)
    (a0 a1 a2 : List Byte) (later : List EnvReply),
    s.idle → s.u1.txbuf.wf = true → payload.length ≤ 250 → expLen.toNat ≤ 250 →
    s.world.env = (if flush then [.returns a0] else []) ++ [.returns a1, .returns a2] ++ later →
    let i := Instr.fcXact page command txid payload expLen flush
    let input := (if flush then [] else s.world.rxIn) ++ a1 ++ a2
    let r := input.take (expLen.toNat + 3)
    let result := responseCheck r txid expLen.toNat .bytes
    ∃ t, execRun i (xactCalls flush + 2) s = .next t ∧ t.idle ∧ t.status = result.status.code ∧
      t.world.hist = s.world.hist ++ [.cmd (latchOf i)] ++
        xactEvents flush (buildFrame page command txid payload) r (expLen.toNat + 3) ++ [.rsp result] ∧
      t.world.rxIn = input.drop (expLen.toNat + 3) ∧ t.world.env = later ∧
      t.world.calls = s.world.calls + xactCalls flush

/-- I2C_WRB as a whole (R130, R132, R133): the default transaction id is 0xBC, four bytes are read, the fourth is
dropped, and the flush is the configuration's. -/
def Obligations.I2cWrbRun : Prop :=
  ∀ (page addr reg value : Byte) (txid : Option Byte) (s : State) (a0 a1 a2 : List Byte) (later : List EnvReply),
    s.idle → s.u1.txbuf.wf = true →
    s.world.env =
      (if s.cfg.flushBeforeWrite then [.returns a0] else []) ++ [.returns a1, .returns a2] ++ later →
    let i := Instr.i2cWrb page addr reg value txid
    let id := txid.getD 0xBC
    let input := (if s.cfg.flushBeforeWrite then [] else s.world.rxIn) ++ a1 ++ a2
    let result := responseCheck (input.take 4) id 1 fun _ => .none
    ∃ t, execRun i (xactCalls s.cfg.flushBeforeWrite + 2) s = .next t ∧ t.idle ∧ t.status = result.status.code ∧
      t.world.hist = s.world.hist ++ [.cmd (latchOf i)] ++
        xactEvents s.cfg.flushBeforeWrite (buildFrame page 0x20 id (wrPayload s.cfg addr reg value)) (input.take 4) 4 ++
        [.rsp result] ∧
      t.world.rxIn = input.drop 4 ∧ t.world.env = later

/-- I2C_RDB as a whole (R131, R132, R133): opcode 0x30 without a register, 0x40 with one, whatever its value; the
default id is 0xAB; the read always flushes; the byte at offset 3 is the data. -/
def Obligations.I2cRdbRun : Prop :=
  ∀ (page addr : Byte) (reg txid : Option Byte) (s : State) (a0 a1 a2 : List Byte) (later : List EnvReply),
    s.idle → s.u1.txbuf.wf = true → s.world.env = [.returns a0, .returns a1, .returns a2] ++ later →
    let i := Instr.i2cRdb page addr reg txid
    let id := txid.getD 0xAB
    let frame := match reg with
      | none => buildFrame page 0x30 id (rdPayload s.cfg addr)
      | some g => buildFrame page 0x40 id (rwPayload s.cfg addr g)
    let r := (a1 ++ a2).take 4
    let result := responseCheck r id 1 fun p => .byte (p.getD 0 0)
    ∃ t, execRun i 5 s = .next t ∧ t.idle ∧ t.status = result.status.code ∧
      t.world.hist = s.world.hist ++ [.cmd (latchOf i), .flush, .write frame, .read 4 r, .rsp result] ∧
      t.world.rxIn = (a1 ++ a2).drop 4 ∧ t.world.env = later

/-! ## U2 and U3: sequences -/

/-- The start of the sequence commands (R134, R135, R152, R153): the bounds, the empty sequence, which ends at once
with no transport call, and the first element. -/
def Obligations.SequenceStarts : Prop :=
  ∀ s : State, s.busy = false → s.u2.buf.wf = true →
    (∀ (page addr reg : Byte) (bytes : List Byte),
      let i := Instr.i2cWrs page addr reg bytes
      (257 < bytes.length →
        exec i s = .next ((s.accepted i).withResult { status := .invalidArgument, data := .none })) ∧
      (bytes = [] → exec i s = .next (State.withResult { status := .ok, data := .none }
        { s.accepted i with u2 := { s.u2 with idx := 0, cnt := 0 } })) ∧
      (∀ v tail, bytes = v :: tail → bytes.length ≤ 257 → exec i s = .next
        (State.awaiting s.cfg.flushBeforeWrite (writeFrame s.cfg page addr reg v) 0xBC 1
          { s.accepted i with u2 := { phase := .wr, idx := 0, cnt := BitVec.ofNat 9 bytes.length
                                      buf := s.u2.buf.writeList 0 bytes } }))) ∧
    (∀ (page addr : Byte) (reg : Option Byte) (count : Half),
      let i := Instr.i2cRds page addr reg count
      (255 < count.toNat →
        exec i s = .next ((s.accepted i).withResult { status := .invalidArgument, data := .none })) ∧
      (count = 0 → exec i s = .next (State.withResult { status := .ok, data := .bytes [] }
        { s.accepted i with u2 := { s.u2 with idx := 0, cnt := 0 } })) ∧
      (0 < count.toNat → count.toNat ≤ 255 → exec i s = .next
        (State.awaiting true (readFrame s.cfg page addr reg) 0xAB 1
          { s.accepted i with u2 := { s.u2 with phase := .rd, idx := 0, cnt := BitVec.ofNat 9 count.toNat } }))) ∧
    (∀ (addr reg : Byte) (packet : List Byte),
      let i := Instr.psuSend addr reg packet
      (257 < packet.length →
        exec i s = .next ((s.accepted i).withResult { status := .invalidArgument, data := .none })) ∧
      (packet = [] → exec i s = .next (State.withResult { status := .ok, data := .none }
        { s.accepted i with u2 := { s.u2 with idx := 0, cnt := 0 } })) ∧
      (∀ v tail, packet = v :: tail → packet.length ≤ 257 → exec i s = .next
        (State.awaiting s.cfg.flushBeforeWrite (writeFrame s.cfg s.cfg.psuPage addr reg v) 0xBC 1
          { s.accepted i with u2 := { phase := .wr, idx := 0, cnt := BitVec.ofNat 9 packet.length
                                      buf := s.u2.buf.writeList 0 packet }
                              u3 := { s.u3 with phase := .send } }))) ∧
    (∀ (addr : Byte) (count : Option Half),
      let i := Instr.psuRecv addr count
      let c := (count.map (·.toNat)).getD 8
      (255 < c → exec i s = .next ((s.accepted i).withResult { status := .invalidArgument, data := .none })) ∧
      (c = 0 → exec i s = .next (State.withResult { status := .ok, data := .bytes [] }
        { s.accepted i with u2 := { s.u2 with idx := 0, cnt := 0 }, u3 := { s.u3 with rplen := 0 } })) ∧
      (0 < c → c ≤ 255 → exec i s = .next
        (State.awaiting true (readFrame s.cfg s.cfg.psuPage addr none) 0xAB 1
          { s.accepted i with u2 := { s.u2 with phase := .rd, idx := 0, cnt := BitVec.ofNat 9 c }
                              u3 := { s.u3 with phase := .recv } })))

/-- An element of a write sequence (R21, R54, R134, R152, R154): after a good response the index goes up by one and the
next element begins, or the sequence is over; the first failure ends it with the index left at the failing offset. -/
def Obligations.WriteElement : Prop :=
  ∀ (i : Instr) (page addr reg : Byte) (s : State) (arrived : List Byte),
    writeSeqOf s.cfg i = some (page, addr, reg) → s.runs i → s.inBounds = true → s.u1.phase = .recv →
    s.u2.phase = .wr → s.u3.phase ≠ .recv → s.reply = .returns arrived →
    let q := responseCheck (s.readable arrived) s.u1.expTxid s.u1.expLen.toNat fun _ => .none
    let t := s.afterRead arrived
    (q.status = .ok → s.u2.idx.toNat + 1 < s.u2.cnt.toNat → exec i s = .next
      (State.awaiting s.cfg.flushBeforeWrite
        (writeFrame s.cfg page addr reg (s.u2.buf.read (s.u2.idx.toNat + 1))) 0xBC 1
        { t with u2 := { s.u2 with idx := s.u2.idx + 1 } })) ∧
    (q.status = .ok → s.u2.idx.toNat + 1 = s.u2.cnt.toNat → (exchangeOf i).isNone → exec i s = .next
      (State.withResult { status := .ok, data := .none } { t with u2 := { s.u2 with idx := s.u2.idx + 1 } })) ∧
    (q.status = .ok → s.u2.idx.toNat + 1 = s.u2.cnt.toNat → (exchangeOf i).isSome → exec i s = .next
      { t with u2 := { s.u2 with phase := .idle, idx := s.u2.idx + 1 }, u3 := { s.u3 with phase := .settle } }) ∧
    (q.status ≠ .ok →
      exec i s = .next (t.withResult { status := writeFailure i q.status, data := .none }))

/-- An element of a read sequence (R21, R22, R25, R54, R135, R153, R154): its byte goes to `SQBUF[SQ_IDX]`; at the end
the bytes are the result, of the PSU commands through `RPBUF`; a failure drops them. -/
def Obligations.ReadElement : Prop :=
  ∀ (i : Instr) (page addr : Byte) (reg : Option Byte) (s : State) (arrived : List Byte),
    readSeqOf s.cfg i = some (page, addr, reg) → s.runs i → s.inBounds = true → s.u1.phase = .recv →
    s.u2.phase = .rd → s.u3.rpbuf.wf = true → ((exchangeOf i).isSome → s.u3.phase = .recv) →
    s.reply = .returns arrived →
    let q := responseCheck (s.readable arrived) s.u1.expTxid s.u1.expLen.toNat fun _ => .none
    let t := s.afterRead arrived
    let buf := s.u2.buf.write s.u2.idx.toNat ((s.readable arrived).getD 3 0)
    let bytes := buf.readList 0 s.u2.cnt.toNat
    (q.status = .ok → s.u2.idx.toNat + 1 < s.u2.cnt.toNat → exec i s = .next
      (State.awaiting true (readFrame s.cfg page addr reg) 0xAB 1
        { t with u2 := { s.u2 with idx := s.u2.idx + 1, buf := buf } })) ∧
    (q.status = .ok → s.u2.idx.toNat + 1 = s.u2.cnt.toNat → i.sequence = true → exec i s = .next
      (State.withResult { status := .ok, data := .bytes bytes }
        { t with u2 := { s.u2 with idx := s.u2.idx + 1, buf := buf } })) ∧
    (q.status = .ok → s.u2.idx.toNat + 1 = s.u2.cnt.toNat → i.psuCalls = true → exec i s = .next
      (State.withResult { status := .ok, data := replyData i bytes }
        { t with u2 := { s.u2 with idx := s.u2.idx + 1, buf := buf }
                 u3 := { s.u3 with rpbuf := s.u3.rpbuf.writeList 0 bytes
                                   rplen := BitVec.ofNat 8 s.u2.cnt.toNat } })) ∧
    (q.status ≠ .ok →
      exec i s = .next (t.withResult { status := readFailure i q.status, data := .none }))

/-- I2C_WRS as a whole (R134; the number of calls is R230's, which the spec marks as derived): every element is one
complete transaction, in increasing offset, to the same register; the first bad response ends it, and the elements
after it are never sent. -/
def Obligations.I2cWrsRun : Prop :=
  ∀ (page addr reg : Byte) (bytes : List Byte) (rs : List (List Byte)) (s : State) (later : List EnvReply),
    s.idle → s.u1.txbuf.wf = true → s.u2.buf.wf = true → bytes.length ≤ 257 →
    (∀ r ∈ rs, goodResponse 0xBC r) → (s.cfg.flushBeforeWrite = true ∨ s.world.rxIn = []) →
    let i := Instr.i2cWrs page addr reg bytes
    let flush := s.cfg.flushBeforeWrite
    (rs.length = bytes.length → s.world.env = seqReplies flush rs ++ later →
      ∃ t, execRun i (xactCalls flush * bytes.length + 2) s = .next t ∧ t.idle ∧ t.status = 0 ∧
        t.u2.idx.toNat = bytes.length ∧ t.world.env = later ∧
        t.world.calls = s.world.calls + xactCalls flush * bytes.length ∧
        t.world.hist = s.world.hist ++ [.cmd (latchOf i)] ++ writeSeqEvents s.cfg page addr reg bytes rs ++
          [.rsp { status := .ok, data := .none }]) ∧
    (∀ bad, rs.length < bytes.length → bad.length ≤ 4 → ¬ goodResponse 0xBC bad →
      s.world.env = seqReplies flush (rs ++ [bad]) ++ later →
      let e := (responseCheck bad 0xBC 1 fun _ => .none).status
      ∃ t, execRun i (xactCalls flush * (rs.length + 1) + 2) s = .next t ∧ t.idle ∧ e ≠ .ok ∧ t.status = e.code ∧
        t.u2.idx.toNat = rs.length ∧ t.world.env = later ∧
        t.world.hist = s.world.hist ++ [.cmd (latchOf i)] ++
          writeSeqEvents s.cfg page addr reg bytes (rs ++ [bad]) ++ [.rsp { status := e, data := .none }])

/-- I2C_RDS as a whole (R135; the number of calls is R230's, which the spec marks as derived): exactly `count` bytes
in the order read, or the first failure's status and no data at all. -/
def Obligations.I2cRdsRun : Prop :=
  ∀ (page addr : Byte) (reg : Option Byte) (count : Half) (rs : List (List Byte)) (s : State)
    (later : List EnvReply),
    s.idle → s.u1.txbuf.wf = true → s.u2.buf.wf = true → count.toNat ≤ 255 → (∀ r ∈ rs, goodResponse 0xAB r) →
    let i := Instr.i2cRds page addr reg count
    (rs.length = count.toNat → s.world.env = seqReplies true rs ++ later →
      ∃ t, execRun i (3 * count.toNat + 2) s = .next t ∧ t.idle ∧ t.status = 0 ∧
        t.u2.idx.toNat = count.toNat ∧ t.world.env = later ∧ t.world.calls = s.world.calls + 3 * count.toNat ∧
        t.world.hist = s.world.hist ++ [.cmd (latchOf i)] ++ readSeqEvents s.cfg page addr reg rs ++
          [.rsp { status := .ok, data := .bytes (dataBytes rs) }]) ∧
    (∀ bad, rs.length < count.toNat → bad.length ≤ 4 → ¬ goodResponse 0xAB bad →
      s.world.env = seqReplies true (rs ++ [bad]) ++ later →
      let e := (responseCheck bad 0xAB 1 fun _ => .none).status
      ∃ t, execRun i (3 * (rs.length + 1) + 2) s = .next t ∧ t.idle ∧ e ≠ .ok ∧ t.status = e.code ∧
        t.u2.idx.toNat = rs.length ∧ t.world.env = later ∧
        t.world.hist = s.world.hist ++ [.cmd (latchOf i)] ++ readSeqEvents s.cfg page addr reg (rs ++ [bad]) ++
          [.rsp { status := e, data := .none }])

/-! ## U3: packets, exchanges, the voltage law -/

/-- PSU_BUILD (R150, R151): header, length, payload, checksum low byte first, in `PKBUF` and as data; over 251 fields
`InvalidArgument`. No transport call. -/
def Obligations.PsuBuild : Prop :=
  ∀ (opcode : Byte) (fields : List Byte) (s : State), s.busy = false → s.u3.pkbuf.wf = true →
    let i := Instr.psuBuild opcode fields
    let length := fields.length + 4
    let checksum := (length + opcode.toNat + (fields.map (·.toNat)).sum) % 65536
    let packet := [0x55, 0xAA, BitVec.ofNat 8 length, opcode] ++ fields ++
      [BitVec.ofNat 8 (checksum % 256), BitVec.ofNat 8 (checksum / 256)]
    (latchOf i).op = 0x20 ∧
    (fields.length ≤ 251 →
      exec i s = .next (State.withResult { status := .ok, data := .bytes packet }
        { s.accepted i with u3 := { s.u3 with pkbuf := s.u3.pkbuf.writeList 0 packet
                                              pklen := BitVec.ofNat 9 (fields.length + 6) } })) ∧
    (251 < fields.length →
      exec i s = .next ((s.accepted i).withResult { status := .invalidArgument, data := .none }))

/-- The start of PSU_CMD and of the five operations (R23, R88, R154 to R160): the five packets (the spec derives them
from R85 to R87, and the bound of `PKLEN` from R85); the packet in
`PKBUF`, the write sequence of its bytes to the PSU's register, the first byte 0x55; `InvalidArgument` for PSU_CMD's
bounds. -/
def Obligations.ExchangeStarts : Prop :=
  buildPacket 0x02 [] = [0x55, 0xAA, 0x04, 0x02, 0x06, 0x00] ∧
  buildPacket 0x03 [] = [0x55, 0xAA, 0x04, 0x03, 0x07, 0x00] ∧
  buildPacket 0x04 [] = [0x55, 0xAA, 0x04, 0x04, 0x08, 0x00] ∧
  (∀ e : Byte, ∃ lo hi : Byte, buildPacket 0x81 [e, 0x00] = [0x55, 0xAA, 0x06, 0x81, e, 0x00, lo, hi] ∧
    lo.toNat + 256 * hi.toNat = 0x87 + e.toNat) ∧
  (∀ v : Byte, ∃ lo hi : Byte, buildPacket 0x83 [v, 0x00] = [0x55, 0xAA, 0x06, 0x83, v, 0x00, lo, hi] ∧
    lo.toNat + 256 * hi.toNat = 0x89 + v.toNat) ∧
  ∀ (i : Instr) (opcode : Byte) (fields : List Byte) (c : Nat) (s : State),
    exchangeOf i = some (opcode, fields, c) → s.busy = false → s.u2.buf.wf = true → s.u3.pkbuf.wf = true →
    let packet := buildPacket opcode fields
    (fields.length ≤ 251 ∧ c ≤ 255 → exec i s = .next
      (State.awaiting s.cfg.flushBeforeWrite
        (writeFrame s.cfg s.cfg.psuPage s.cfg.psuAddr s.cfg.psuReg 0x55) 0xBC 1
        { s.accepted i with u2 := { phase := .wr, idx := 0, cnt := BitVec.ofNat 9 (fields.length + 6)
                                    buf := s.u2.buf.writeList 0 packet }
                            u3 := { s.u3 with phase := .send, pkbuf := s.u3.pkbuf.writeList 0 packet
                                              pklen := BitVec.ofNat 9 (fields.length + 6) } })) ∧
    (251 < fields.length ∨ 255 < c →
      exec i s = .next ((s.accepted i).withResult { status := .invalidArgument, data := .none }))

/-- PSU_SEND as a whole (R90, R152): the bytes one by one on the PSU page; `CommandSendFailed` at the first failure,
whatever the element's own status is; no delay. -/
def Obligations.PsuSendRun : Prop :=
  ∀ (addr reg : Byte) (packet : List Byte) (rs : List (List Byte)) (s : State) (later : List EnvReply),
    s.idle → s.u1.txbuf.wf = true → s.u2.buf.wf = true → packet.length ≤ 257 →
    (∀ r ∈ rs, goodResponse 0xBC r) → (s.cfg.flushBeforeWrite = true ∨ s.world.rxIn = []) →
    let i := Instr.psuSend addr reg packet
    let flush := s.cfg.flushBeforeWrite
    (rs.length = packet.length → s.world.env = seqReplies flush rs ++ later →
      ∃ t, execRun i (xactCalls flush * packet.length + 2) s = .next t ∧ t.idle ∧ t.status = 0 ∧
        t.world.env = later ∧
        t.world.hist = s.world.hist ++ [.cmd (latchOf i)] ++
          writeSeqEvents s.cfg s.cfg.psuPage addr reg packet rs ++ [.rsp { status := .ok, data := .none }]) ∧
    (∀ bad, rs.length < packet.length → bad.length ≤ 4 → ¬ goodResponse 0xBC bad →
      s.world.env = seqReplies flush (rs ++ [bad]) ++ later →
      ∃ t, execRun i (xactCalls flush * (rs.length + 1) + 2) s = .next t ∧ t.idle ∧ t.status = 6 ∧
        t.u2.idx.toNat = rs.length ∧ t.world.env = later ∧
        t.world.hist = s.world.hist ++ [.cmd (latchOf i)] ++
          writeSeqEvents s.cfg s.cfg.psuPage addr reg packet (rs ++ [bad]) ++
          [.rsp { status := .commandSendFailed, data := .none }])

/-- PSU_RECV as a whole (R89, R153): the default count is 8; the pure read of the PSU's address; the bytes in `RPBUF`
and as data; `ReplyIncomplete` at the first failure, and no data. -/
def Obligations.PsuRecvRun : Prop :=
  ∀ (addr : Byte) (count : Option Half) (rs : List (List Byte)) (s : State) (later : List EnvReply),
    s.idle → s.u1.txbuf.wf = true → s.u2.buf.wf = true → s.u3.rpbuf.wf = true →
    (∀ r ∈ rs, goodResponse 0xAB r) →
    let i := Instr.psuRecv addr count
    let c := (count.map (·.toNat)).getD 8
    c ≤ 255 →
    (rs.length = c → s.world.env = seqReplies true rs ++ later →
      ∃ t, execRun i (3 * c + 2) s = .next t ∧ t.idle ∧ t.status = 0 ∧ t.u3.rplen.toNat = c ∧
        t.u3.rpbuf.readList 0 c = dataBytes rs ∧ t.world.env = later ∧
        t.world.hist = s.world.hist ++ [.cmd (latchOf i)] ++ readSeqEvents s.cfg s.cfg.psuPage addr none rs ++
          [.rsp { status := .ok, data := .bytes (dataBytes rs) }]) ∧
    (∀ bad, rs.length < c → bad.length ≤ 4 → ¬ goodResponse 0xAB bad →
      s.world.env = seqReplies true (rs ++ [bad]) ++ later →
      ∃ t, execRun i (3 * (rs.length + 1) + 2) s = .next t ∧ t.idle ∧ t.status = 7 ∧ t.world.env = later ∧
        t.world.hist = s.world.hist ++ [.cmd (latchOf i)] ++
          readSeqEvents s.cfg s.cfg.psuPage addr none (rs ++ [bad]) ++
          [.rsp { status := .replyIncomplete, data := .none }])

/-- The whole exchange with the PSU, for PSU_CMD and the five operations (R59, R154 to R160; the number of calls
is R230's, which the spec marks as derived): the packet byte by
byte, exactly one delay after the last of its responses and before the first read, the reply byte by byte, and what the
command makes of it. -/
def Obligations.PsuExchangeRun : Prop :=
  ∀ (i : Instr) (opcode : Byte) (fields : List Byte) (c : Nat) (ws rs : List (List Byte)) (early : List Byte)
    (s : State) (later : List EnvReply),
    exchangeOf i = some (opcode, fields, c) → fields.length ≤ 251 → c ≤ 255 →
    s.idle → s.u1.txbuf.wf = true → s.u2.buf.wf = true → s.u3.pkbuf.wf = true → s.u3.rpbuf.wf = true →
    (s.cfg.flushBeforeWrite = true ∨ s.world.rxIn = []) →
    ws.length = fields.length + 6 → (∀ r ∈ ws, goodResponse 0xBC r) →
    rs.length = c → (∀ r ∈ rs, goodResponse 0xAB r) →
    s.world.env = seqReplies s.cfg.flushBeforeWrite ws ++ [.returns early] ++ seqReplies true rs ++ later →
    let calls := xactCalls s.cfg.flushBeforeWrite * (fields.length + 6) + 1 + 3 * c
    ∃ t, execRun i (calls + 2) s = .next t ∧ t.idle ∧ t.status = 0 ∧ t.world.env = later ∧
      t.world.calls = s.world.calls + calls ∧
      t.u3.pklen.toNat = fields.length + 6 ∧ t.u3.rplen.toNat = c ∧ t.u3.rpbuf.readList 0 c = dataBytes rs ∧
      t.world.hist = s.world.hist ++ [.cmd (latchOf i)] ++
        writeSeqEvents s.cfg s.cfg.psuPage s.cfg.psuAddr s.cfg.psuReg (buildPacket opcode fields) ws ++
        [.delay s.cfg.settleDelay] ++ readSeqEvents s.cfg s.cfg.psuPage s.cfg.psuAddr none rs ++
        [.rsp { status := .ok, data := replyData i (dataBytes rs) }]

/-- The two ways an exchange fails (R154, R166): a packet byte's write fails, then there is no delay and no read; or
the packet and the delay are made and a reply byte's read fails. -/
def Obligations.PsuExchangeFails : Prop :=
  ∀ (i : Instr) (opcode : Byte) (fields : List Byte) (c : Nat) (ws rs : List (List Byte)) (bad early : List Byte)
    (s : State) (later : List EnvReply),
    exchangeOf i = some (opcode, fields, c) → fields.length ≤ 251 → c ≤ 255 →
    s.idle → s.u1.txbuf.wf = true → s.u2.buf.wf = true → s.u3.pkbuf.wf = true → s.u3.rpbuf.wf = true →
    (s.cfg.flushBeforeWrite = true ∨ s.world.rxIn = []) →
    (∀ r ∈ ws, goodResponse 0xBC r) → (∀ r ∈ rs, goodResponse 0xAB r) → bad.length ≤ 4 →
    let packet := buildPacket opcode fields
    let flush := s.cfg.flushBeforeWrite
    (ws.length < fields.length + 6 → ¬ goodResponse 0xBC bad →
      s.world.env = seqReplies flush (ws ++ [bad]) ++ later →
      ∃ t, execRun i (xactCalls flush * (ws.length + 1) + 2) s = .next t ∧ t.idle ∧ t.status = 6 ∧
        t.world.env = later ∧
        t.world.hist = s.world.hist ++ [.cmd (latchOf i)] ++
          writeSeqEvents s.cfg s.cfg.psuPage s.cfg.psuAddr s.cfg.psuReg packet (ws ++ [bad]) ++
          [.rsp { status := .commandSendFailed, data := .none }]) ∧
    (ws.length = fields.length + 6 → rs.length < c → ¬ goodResponse 0xAB bad →
      s.world.env = seqReplies flush ws ++ [.returns early] ++ seqReplies true (rs ++ [bad]) ++ later →
      ∃ t, execRun i (xactCalls flush * (fields.length + 6) + 1 + 3 * (rs.length + 1) + 2) s = .next t ∧ t.idle ∧
        t.status = 7 ∧ t.world.env = later ∧
        t.world.hist = s.world.hist ++ [.cmd (latchOf i)] ++
          writeSeqEvents s.cfg s.cfg.psuPage s.cfg.psuAddr s.cfg.psuReg packet ws ++ [.delay s.cfg.settleDelay] ++
          readSeqEvents s.cfg s.cfg.psuPage s.cfg.psuAddr none (rs ++ [bad]) ++
          [.rsp { status := .replyIncomplete, data := .none }])

/-- VOLT_ENC and VOLT_DEC (R161, R162, R164, R165), with the floor written as the bounds it means. -/
def Obligations.VoltageCommands : Prop :=
  (∀ (h : Byte) (s : State), s.busy = false → (latchOf (.voltDec h)).op = 0x2A ∧
    exec (.voltDec h) s = .next ((s.accepted (.voltDec h)).withResult
      { status := .ok, data := .num (BitVec.ofNat 16 (15092 - 13 * h.toNat)) })) ∧
  (∀ (mv : Half) (s : State), s.busy = false → (latchOf (.voltEnc mv)).op = 0x29 ∧
    (11771 ≤ mv.toNat ∧ mv.toNat ≤ 15098 →
      ∃ h : Byte,
        (26 * (h.toNat : Int) ≤ 2 * (15092 - (mv.toNat : Int)) + 13 ∧
          2 * (15092 - (mv.toNat : Int)) + 13 < 26 * ((h.toNat : Int) + 1)) ∧
        exec (.voltEnc mv) s =
          .next ((s.accepted (.voltEnc mv)).withResult { status := .ok, data := .byte h })) ∧
    (mv.toNat < 11771 ∨ 15098 < mv.toNat →
      exec (.voltEnc mv) s =
        .next ((s.accepted (.voltEnc mv)).withResult { status := .invalidArgument, data := .none })))

/-- The voltage law in both directions (R161, R162): decoding an encoded voltage is off by at most 6 mV, and encoding a
decoded code gives the code. -/
def Obligations.VoltageRoundTrip : Prop :=
  (∀ (mv : Half) (h : Byte) (s t : State), s.busy = false → exec (.voltEnc mv) s = .next t →
    t.done = some { status := .ok, data := .byte h } →
    ∃ (v : Half) (u : State), exec (.voltDec h) s = .next u ∧ u.done = some { status := .ok, data := .num v } ∧
      v.toNat ≤ mv.toNat + 6 ∧ mv.toNat ≤ v.toNat + 6) ∧
  (∀ (h : Byte) (v : Half) (s t : State), s.busy = false → exec (.voltDec h) s = .next t →
    t.done = some { status := .ok, data := .num v } →
    ∃ u, exec (.voltEnc v) s = .next u ∧ u.done = some { status := .ok, data := .byte h })

/-! ## U4: words and pairs -/

/-- AW_ENC (R180, R181): two bytes per word, the low eight bits and bit 8; every upper bit is dropped; always `OK`. -/
def Obligations.AwEnc : Prop :=
  ∀ (words : List Half) (s : State), s.busy = false →
    ∃ l : List Byte,
      exec (.awEnc words) s = .next ((s.accepted (.awEnc words)).withResult { status := .ok, data := .bytes l }) ∧
      l.length = 2 * words.length ∧
      ∀ k : Nat, k < words.length →
        (l.getD (2 * k) 0).toNat = (words.getD k 0).toNat % 256 ∧
        (l.getD (2 * k + 1) 0).toNat = (words.getD k 0).toNat / 256 % 2

/-- AW_DEC (R182, R183): `LengthMismatch` for an odd length or a count that does not match, else one word per pair,
bits 1 to 7 of its second byte ignored. -/
def Obligations.AwDec : Prop :=
  ∀ (bytes : List Byte) (expCount : Option Half) (s : State), s.busy = false →
    let i := Instr.awDec bytes expCount
    let bad := bytes.length % 2 = 1 ∨ ∃ k : Half, expCount = some k ∧ bytes.length ≠ 2 * k.toNat
    (bad → exec i s = .next ((s.accepted i).withResult { status := .lengthMismatch, data := .none })) ∧
    (¬ bad → ∃ w : List Half,
      exec i s = .next ((s.accepted i).withResult { status := .ok, data := .words w }) ∧
      2 * w.length = bytes.length ∧
      ∀ k : Nat, k < w.length →
        (w.getD k 0).toNat = (bytes.getD (2 * k) 0).toNat + 256 * ((bytes.getD (2 * k + 1) 0).toNat % 2))

/-- The laws of R184, which the spec marks as derived from R180 and R182: 9-bit words survive AW_ENC and AW_DEC; the
bytes AW_ENC makes of AW_DEC's words are the bytes decoded, with bits 1 to 7 of every second one cleared. -/
def Obligations.AsicWordLaws : Prop :=
  (∀ (words : List Half) (s t : State) (l : List Byte), s.busy = false → (∀ w ∈ words, w.toNat ≤ 511) →
    exec (.awEnc words) s = .next t → t.done = some { status := .ok, data := .bytes l } →
    (∃ u, exec (.awDec l none) s = .next u ∧ u.done = some { status := .ok, data := .words words }) ∧
    (words.length < 65536 → ∃ u, exec (.awDec l (some (BitVec.ofNat 16 words.length))) s = .next u ∧
      u.done = some { status := .ok, data := .words words })) ∧
  (∀ (bytes : List Byte) (s t : State) (w : List Half), s.busy = false → exec (.awDec bytes none) s = .next t →
    t.done = some { status := .ok, data := .words w } →
    ∃ u l, exec (.awEnc w) s = .next u ∧ u.done = some { status := .ok, data := .bytes l } ∧
      l.length = bytes.length ∧
      ∀ k : Nat, l.getD k 0 = if k % 2 = 0 then bytes.getD k 0 else bytes.getD k 0 &&& 0x01)

/-! ## The wire rows -/

/-- The four frame rows (R70, R80, R81): the step that hands exactly this frame to the transport is the running
command's own step. That a row means this step is the model's choice (log 2). -/
def Obligations.FrameRows : Prop :=
  ∀ (s : State) (length txid page command : Byte) (payload arrived : List Byte),
    s.calling = true → s.inBounds = true → s.u1.phase = .send → s.reply = .returns arrived →
    s.u1.txbuf.readList 0 s.u1.txlen.toNat = [length, 0x00, txid, 0x00, page, command] ++ payload →
    let t := { s.afterCall (.write ([length, 0x00, txid, 0x00, page, command] ++ payload)) (s.world.rxIn ++ arrived) with
               u1 := { s.u1 with phase := .recv } }
    exec (.frame length txid page command payload) s = .next t ∧
    (command = 0x20 → exec (.frameI2cWrite length txid page payload) s = .next t) ∧
    (command = 0x30 → exec (.frameI2cRead length txid page payload) s = .next t) ∧
    (command = 0x40 → exec (.frameI2cReadwrite length txid page payload) s = .next t) ∧
    (∀ i : Instr, i.calls = true → s.latch.instr = some i → exec i s = .next t)

/-- The six rows of PSU packets, PSU_PACKET and the five special rows (R85, R88, R90): while the write sequence of
exactly this packet runs, its step that hands `TXBUF[0 .. TXLEN)` to the transport. That a row means this step is the
model's choice (log 2). -/
def Obligations.PacketRows : Prop :=
  ∀ (s : State) (arrived packet : List Byte),
    s.calling = true → s.inBounds = true → s.u1.phase = .send → s.u2.phase = .wr → s.u3.phase = .send →
    s.reply = .returns arrived → s.u2.buf.readList 0 s.u2.cnt.toNat = packet →
    let t := { s.afterCall (.write (s.u1.txbuf.readList 0 s.u1.txlen.toNat)) (s.world.rxIn ++ arrived) with
               u1 := { s.u1 with phase := .recv } }
    (∀ (length opcode : Byte) (fields : List Byte) (lo hi : Byte),
      packet = [0x55, 0xAA, length, opcode] ++ fields ++ [lo, hi] →
      exec (.psuPacket length opcode fields lo hi) s = .next t) ∧
    (packet = [0x55, 0xAA, 0x04, 0x02, 0x06, 0x00] → exec .psuPktGetHwver s = .next t) ∧
    (∀ e lo hi : Byte, packet = [0x55, 0xAA, 0x06, 0x81, e, 0x00, lo, hi] →
      exec (.psuPktCfgWdt e lo hi) s = .next t) ∧
    (∀ v lo hi : Byte, packet = [0x55, 0xAA, 0x06, 0x83, v, 0x00, lo, hi] →
      exec (.psuPktSetV v lo hi) s = .next t) ∧
    (packet = [0x55, 0xAA, 0x04, 0x03, 0x07, 0x00] → exec .psuPktGetV s = .next t) ∧
    (packet = [0x55, 0xAA, 0x04, 0x04, 0x08, 0x00] → exec .psuPktMeasV s = .next t)

/-- The row of a response (R76, R113): the running command's step whose read returns exactly this byte list. The
model's choice (log 2). -/
def Obligations.ResponseRow : Prop :=
  ∀ (i : Instr) (s : State) (byte0 byte1 txid : Byte) (payload arrived : List Byte),
    i.calls = true → s.runs i → s.inBounds = true → s.u1.phase = .recv → s.reply = .returns arrived →
    s.readable arrived = [byte0, byte1, txid] ++ payload →
    ∃ t, exec (.response byte0 byte1 txid payload) s = .next t ∧ exec i s = .next t ∧
      t.world.hist = s.world.hist ++ [.read (s.u1.expLen.toNat + 3) ([byte0, byte1, txid] ++ payload)]

/-- The row of an ASIC pair (R92): the delivery of AW_ENC's bytes or of AW_DEC's words, where the pair is one of the
list's. The model's choice (log 2). -/
def Obligations.AsicPairRow : Prop :=
  ∀ (s : State) (byte0 : Byte) (bit8 : Bool) (r : Rsp), s.busy = true → s.hung = false → s.done = some r →
    r.status = .ok →
    (∀ (words : List Half) (l : List Byte) (k : Nat), s.latch.instr = some (.awEnc words) → r.data = .bytes l →
      2 * k + 1 < l.length → l.getD (2 * k) 0 = byte0 → l.getD (2 * k + 1) 0 = (if bit8 then 1 else 0) →
      exec (.asicPair byte0 bit8) s = .next { s with
        busy := false, status := 0, done := none
        world := { s.world with hist := s.world.hist ++ [.rsp r] } } ∧
      exec (.asicPair byte0 bit8) s = exec (.awEnc words) s) ∧
    (∀ (bytes : List Byte) (count : Option Half) (w : List Half) (k : Nat),
      s.latch.instr = some (.awDec bytes count) → r.data = .words w →
      2 * k + 1 < bytes.length → bytes.getD (2 * k) 0 = byte0 →
      bytes.getD (2 * k + 1) 0 = (if bit8 then 1 else 0) →
      exec (.asicPair byte0 bit8) s = exec (.awDec bytes count) s ∧
      ∃ t, exec (.asicPair byte0 bit8) s = .next t ∧ t.busy = false)

/-- A wire row is no command (R100): while nothing runs it is refused by name. The model's choice (log 2). -/
def Obligations.WireRowsAreNoCommands : Prop :=
  ∀ (i : Instr) (s : State), i.channel ≠ .cmd → s.busy = false → exec i s = .refused .notOnWire

/-! ## Frames -/

/-- What no host command changes: the configuration, the host's coming inputs; the latch but at acceptance; `BUSY` but
at acceptance and delivery; `STATUS` but at delivery. -/
def Obligations.CommandFrame : Prop :=
  ∀ (i : Instr) (s t : State), i.channel = .cmd → exec i s = .next t → FrameTop i s t

/-- The commands that write no buffer: FC_PARSE, VOLT_ENC, VOLT_DEC, AW_ENC, AW_DEC. They make no call. -/
def Obligations.PureFrame : Prop :=
  ∀ (i : Instr) (s t : State), i.storesNothing = true → exec i s = .next t →
    SameU1 s t ∧ SameU2 s t ∧ SameU3 s t ∧ t.world.env = s.world.env ∧ t.world.calls = s.world.calls ∧
      t.world.rxIn = s.world.rxIn

/-- FC_BUILD stores to `TXBUF[0 .. TXLEN)`, PSU_BUILD to `PKBUF[0 .. PKLEN)`, and nothing else. -/
def Obligations.BuildFrame : Prop :=
  (∀ (page command txid : Byte) (payload : List Byte) (s t : State), s.u1.txbuf.wf = true →
    exec (.fcBuild page command txid payload) s = .next t →
    (∀ a, t.u1.txlen.toNat ≤ a → t.u1.txbuf.read a = s.u1.txbuf.read a) ∧
    (∀ a, t.u1.rxbuf.read a = s.u1.rxbuf.read a) ∧ t.u1.rxcnt = s.u1.rxcnt ∧ t.u1.expTxid = s.u1.expTxid ∧
    t.u1.expLen = s.u1.expLen ∧ SameU2 s t ∧ SameU3 s t ∧ t.world.env = s.world.env ∧
    t.world.calls = s.world.calls ∧ t.world.rxIn = s.world.rxIn) ∧
  (∀ (opcode : Byte) (fields : List Byte) (s t : State), s.u3.pkbuf.wf = true →
    exec (.psuBuild opcode fields) s = .next t →
    (∀ a, t.u3.pklen.toNat ≤ a → t.u3.pkbuf.read a = s.u3.pkbuf.read a) ∧
    (∀ a, t.u3.rpbuf.read a = s.u3.rpbuf.read a) ∧ t.u3.rplen = s.u3.rplen ∧ SameU1 s t ∧ SameU2 s t ∧
    t.world.env = s.world.env ∧ t.world.calls = s.world.calls ∧ t.world.rxIn = s.world.rxIn)

/-- FC_XACT, I2C_WRB and I2C_RDB use U1 alone: they store to `TXBUF[0 .. TXLEN)` and to `RXBUF[0 .. EXP_LEN + 3)`. -/
def Obligations.TransactionFrame : Prop :=
  ∀ (i : Instr) (s t : State), i.oneTransaction = true → s.u1.txbuf.wf = true → s.u1.rxbuf.wf = true →
    exec i s = .next t → OutsideU1 s t ∧ SameU2 s t ∧ SameU3 s t

/-- I2C_WRS and I2C_RDS use U1 and U2: at acceptance they store to `SQBUF[0 .. SQ_CNT)`, later only to the element just
read, `SQBUF[SQ_IDX]`. -/
def Obligations.SequenceFrame : Prop :=
  ∀ (i : Instr) (s t : State), i.sequence = true → s.u1.txbuf.wf = true → s.u1.rxbuf.wf = true →
    s.u2.buf.wf = true → exec i s = .next t → OutsideU1 s t ∧ OutsideU2 s t ∧ SameU3 s t

/-- The PSU commands that make calls store to `PKBUF[0 .. PKLEN)` at acceptance only, and to `RPBUF[0 .. RPLEN)`. -/
def Obligations.ExchangeFrame : Prop :=
  ∀ (i : Instr) (s t : State), i.psuCalls = true → s.Inv → exec i s = .next t →
    OutsideU1 s t ∧ OutsideU2 s t ∧ OutsideU3 s t

/-! ## The machine as a whole -/

/-- The state after reset meets the invariant, with any configuration. -/
def Obligations.ResetMeetsInvariant : Prop :=
  State.reset.Inv ∧ ∀ c : Config, (State.resetWith c).Inv

/-- Every step keeps the invariant (R16 and R24 are marked as derived; the canonical form is the model's): the buffers
canonical and inside their sizes (R16, R17, R22, R24, R25), the lengths and the index in their bounds (R16, R17, R18,
R21, R24), the phases those of the running command (R19, R20, R23), a frame in `TXBUF` while one is to be sent (R70),
a result only with a status the command can end with (R198). -/
def Obligations.StepKeepsInvariant : Prop :=
  ∀ s t : State, s.Inv → step s = .next t → t.Inv

/-- From a state that meets the invariant the block never faults, and while a command runs it always has a next state:
"the block's rules give a defined result for every such answer" (R49, which the spec marks as derived). That a step
outside a buffer would be a fault is the model's choice (log 10). -/
def Obligations.BlockNeverFaults : Prop :=
  (∀ (s : State) (f : Fault), s.Inv → step s ≠ .fault f) ∧
  (∀ s : State, s.Inv → s.busy = true → ∃ t, step s = .next t)

/-- R70 to R74: every byte list the block writes is a request frame: 6 to 256 bytes, the length byte counts from the
id, offsets 1 and 3 are zero, and offset 2 is the id the response must carry (R18). -/
def Obligations.EveryWriteIsAFrame : Prop :=
  ∀ (s t : State) (b : List Byte), s.Inv → step s = .next t → t.world.hist = s.world.hist ++ [.write b] →
    6 ≤ b.length ∧ b.length ≤ 256 ∧ (b.getD 0 0).toNat = b.length - 2 ∧ b.getD 1 1 = 0x00 ∧ b.getD 3 1 = 0x00 ∧
      b.getD 2 0 = t.u1.expTxid

/-- The tables of R190 and R198 (the second is marked as derived): the codes of the statuses; the status of a
delivered record is one its command can end with, its code, which is at most 7, is what `STATUS` then holds, and only
`OK` carries data. -/
def Obligations.StatusTables : Prop :=
  [Status.ok, .shortRead, .noData, .idMismatch, .lengthMismatch, .invalidArgument, .commandSendFailed,
    .replyIncomplete, .transportUnavailable].map Status.code = [0, 1, 2, 3, 4, 5, 6, 7, 8] ∧
  (∀ (s t : State) (r : Rsp), s.Inv → step s = .next t → t.world.hist = s.world.hist ++ [.rsp r] →
    r.status ∈ statusesOf s.latch.instr ∧ (r.status ≠ .ok → r.data = .none) ∧ t.status = r.status.code ∧
      t.status.toNat ≤ 7)

/-- R194: `InvalidArgument` is raised at acceptance, under exactly its conditions, and never by a later step. -/
def Obligations.InvalidArgumentExactly : Prop :=
  (∀ (i : Instr) (s t : State), i.channel = .cmd → s.idle → exec i s = .next t →
    (t.done = some { status := .invalidArgument, data := .none } ↔ i.badOperand = true)) ∧
  (∀ (i : Instr) (s t : State) (r : Rsp), i.channel = .cmd → s.runs i → exec i s = .next t → t.done = some r →
    r.status ≠ .invalidArgument) ∧
  (∀ (op : Byte) (bytes : List Byte) (later : List HostInput) (s : State), operandReader op.toNat = none →
    s.idle → s.world.host = .cmd (op :: bytes) :: later →
    ∃ t, step s = .next t ∧ t.done = some { status := .invalidArgument, data := .none })

/-- R200, R201, for a failure in a later step of a running command: it ends the command at once: the phases are idle,
the record has no data, the next step delivers it without another call, the buffers and `SQ_IDX` keep what they hold,
and the block is idle. That the phases are idle while `BUSY` is still 1, one step before the delivery, rests on D2 and
log 8 (DEDUCED). A failure at acceptance: `FcBuild`, `FcParse`, `TransactionStarts`, `SequenceStarts`, `PsuBuild`,
`ExchangeStarts`, `VoltageCommands` and `AwDec`, each with `DeliveryIsOneStep`. -/
def Obligations.FailureIsPrecise : Prop :=
  ∀ (i : Instr) (s t : State) (r : Rsp), i.channel = .cmd → s.Inv → s.busy = true → s.done = none →
    exec i s = .next t → t.done = some r → r.status ≠ .ok →
    t.unitsIdle = true ∧ r.data = .none ∧ t.busy = true ∧
    ∃ u, exec i t = .next u ∧ u.idle ∧ u.status = r.status.code ∧ u.u1 = t.u1 ∧ u.u2 = t.u2 ∧ u.u3 = t.u3 ∧
      u.world = { t.world with hist := t.world.hist ++ [.rsp r] }

/-- R30, and R44 and R63, which the spec marks as derived: what a command does is determined by the command, the
configuration and the environment's answers: from two idle states that agree on these, with any contents of buffers,
latch, registers and `STATUS`, every run makes the same events. -/
def Obligations.HistoryIgnoresOldState : Prop :=
  ∀ (i : Instr) (s u : State) (n : Nat), i.channel = .cmd → s.idle → u.idle → s.buffersOk = true →
    u.buffersOk = true → s.cfg = u.cfg → s.world.env = u.world.env → s.world.calls = u.world.calls →
    s.world.rxIn = u.world.rxIn →
    ∀ s', execRun i n s = .next s' →
    ∃ u', execRun i n u = .next u' ∧ u'.busy = s'.busy ∧ u'.world.rxIn = s'.world.rxIn ∧
      ∃ events, s'.world.hist = s.world.hist ++ events ∧ u'.world.hist = u.world.hist ++ events

/-- R137, R207, and R230, which the spec marks as derived: provided each call returns, a running command ends after at
most 3 * 257 + 1 + 3 * 255 calls and the step of delivery. -/
def Obligations.CommandsEnd : Prop :=
  ∀ s : State, s.Inv → s.busy = true → s.hung = false → s.world.host = [] → 1537 ≤ s.world.env.length →
    (∀ r ∈ s.world.env, r ≠ .never) →
    ∃ (n : Nat) (t : State), n ≤ 1538 ∧ runSteps n s = .next t ∧ t.idle
end

