-- ==== Sys2Proof/Laws/Memory.lean ====
section
/-! SUPPORT. The laws of a buffer: reading after writing, and that every write keeps the canonical form. -/

namespace Sys2Proof.Machine

theorem Memory.read_below (m : Memory) (lo a : Nat) (h : a < lo) (hs : Memory.sorted lo m = true) :
    m.read a = Memory.unlisted := by
  induction m generalizing lo with
  | nil => rfl
  | cons c m ih =>
    obtain ⟨b, w⟩ := c
    simp only [Memory.sorted, Bool.and_eq_true, decide_eq_true_eq] at hs
    rw [Memory.read, if_neg (by omega)]
    exact ih (b + 1) (by omega) hs.2

theorem Memory.read_write' (m : Memory) (lo a : Nat) (v : Byte) (hs : Memory.sorted lo m = true) :
    (m.write a v).read a = v := by
  induction m generalizing lo with
  | nil => by_cases h : v = Memory.unlisted <;> simp [Memory.write, Memory.read, h]
  | cons c m ih =>
    obtain ⟨b, w⟩ := c
    simp only [Memory.sorted, Bool.and_eq_true, decide_eq_true_eq] at hs
    unfold Memory.write
    split
    · split
      · next h => rw [Memory.read, if_neg (by omega), Memory.read_below m (b + 1) a (by omega) hs.2, h]
      · simp [Memory.read]
    · split
      · split
        · next hv => rw [Memory.read_below m (b + 1) a (by omega) hs.2, hv]
        · simp [Memory.read]
      · next h =>
        rw [Memory.read, if_neg h]
        exact ih (b + 1) hs.2

/-- A read after a write to the same index gives the byte written. -/
theorem Memory.read_write (m : Memory) (h : m.wf = true) (a : Nat) (v : Byte) : (m.write a v).read a = v :=
  Memory.read_write' m 0 a v h

theorem Memory.read_write_ne' (m : Memory) (lo a a' : Nat) (v : Byte) (hs : Memory.sorted lo m = true)
    (hne : a' ≠ a) : (m.write a v).read a' = m.read a' := by
  induction m generalizing lo with
  | nil =>
    unfold Memory.write
    split
    · rfl
    · simp [Memory.read, hne]
  | cons c m ih =>
    obtain ⟨b, w⟩ := c
    simp only [Memory.sorted, Bool.and_eq_true, decide_eq_true_eq] at hs
    unfold Memory.write
    split
    · split
      · rfl
      · simp [Memory.read, hne]
    · split
      · next h =>
        subst h
        split
        · rw [Memory.read, if_neg hne]
        · simp [Memory.read, hne]
      · simp only [Memory.read]
        split
        · rfl
        · exact ih (b + 1) hs.2

/-- A write leaves every other index alone. -/
theorem Memory.read_write_ne (m : Memory) (h : m.wf = true) (a a' : Nat) (v : Byte) (hne : a' ≠ a) :
    (m.write a v).read a' = m.read a' := Memory.read_write_ne' m 0 a a' v h hne

theorem Memory.sorted_mono (m : Memory) (lo lo' : Nat) (h : lo' ≤ lo) (hs : Memory.sorted lo m = true) :
    Memory.sorted lo' m = true := by
  cases m with
  | nil => rfl
  | cons c m =>
    obtain ⟨b, w⟩ := c
    simp only [Memory.sorted, Bool.and_eq_true, decide_eq_true_eq] at hs ⊢
    exact ⟨⟨by omega, hs.1.2⟩, hs.2⟩

theorem Memory.sorted_write (m : Memory) (lo a : Nat) (v : Byte) (hs : Memory.sorted lo m = true) (ha : lo ≤ a) :
    Memory.sorted lo (m.write a v) = true := by
  induction m generalizing lo with
  | nil =>
    unfold Memory.write
    split
    · rfl
    · next h => simp [Memory.sorted, ha, h]
  | cons c m ih =>
    obtain ⟨b, w⟩ := c
    have hs' := hs
    simp only [Memory.sorted, Bool.and_eq_true, decide_eq_true_eq] at hs'
    unfold Memory.write
    split
    · next hab =>
      split
      · exact hs
      · next hv =>
        simp only [Memory.sorted, Bool.and_eq_true, decide_eq_true_eq, bne_iff_ne, ne_eq]
        exact ⟨⟨ha, hv⟩, ⟨⟨by omega, by simpa using hs'.1.2⟩, hs'.2⟩⟩
    · split
      · next h =>
        subst h
        split
        · exact Memory.sorted_mono m (a + 1) lo (by omega) hs'.2
        · next hv =>
          simp only [Memory.sorted, Bool.and_eq_true, decide_eq_true_eq, bne_iff_ne, ne_eq]
          exact ⟨⟨ha, hv⟩, hs'.2⟩
      · next hlt hne =>
        simp only [Memory.sorted, Bool.and_eq_true, decide_eq_true_eq]
        exact ⟨hs'.1, ih (b + 1) hs'.2 (by omega)⟩

/-- A write keeps the canonical form. -/
theorem Memory.wf_write (m : Memory) (h : m.wf = true) (a : Nat) (v : Byte) : (m.write a v).wf = true :=
  Memory.sorted_write m 0 a v h (Nat.zero_le a)

/-- Writing a list keeps the canonical form. -/
theorem Memory.wf_writeList (m : Memory) (h : m.wf = true) (a : Nat) (l : List Byte) :
    (m.writeList a l).wf = true := by
  induction l generalizing m a with
  | nil => exact h
  | cons v l ih => exact ih (m.write a v) (Memory.wf_write m h a v) (a + 1)

theorem Memory.within_write (m : Memory) (n a : Nat) (v : Byte) (h : m.within n = true) (ha : a < n) :
    (m.write a v).within n = true := by
  simp only [Memory.within, List.all_eq_true, decide_eq_true_eq] at h ⊢
  induction m with
  | nil =>
    unfold Memory.write
    split <;> simp [ha]
  | cons c m ih =>
    obtain ⟨b, w⟩ := c
    unfold Memory.write
    have hb := h (b, w) (by simp)
    have ht : ∀ x ∈ m, x.1 < n := fun x hx => h x (List.mem_cons_of_mem _ hx)
    split
    · split
      · exact h
      · intro x hx
        rcases List.mem_cons.1 hx with rfl | hx
        · exact ha
        · exact h x hx
    · split
      · split
        · exact ht
        · intro x hx
          rcases List.mem_cons.1 hx with rfl | hx
          · exact ha
          · exact ht x hx
      · intro x hx
        rcases List.mem_cons.1 hx with rfl | hx
        · exact hb
        · exact ih ht x hx

/-- Writing a list inside the buffer keeps every index inside it. -/
theorem Memory.within_writeList (m : Memory) (n a : Nat) (l : List Byte) (h : m.within n = true)
    (ha : a + l.length ≤ n) : (m.writeList a l).within n = true := by
  induction l generalizing m a with
  | nil => exact h
  | cons v l ih =>
    simp only [List.length_cons] at ha
    exact ih (m.write a v) (a + 1) (Memory.within_write m n a v h (by omega)) (by omega)

theorem Memory.read_writeList_lt (m : Memory) (h : m.wf = true) (a a' : Nat) (l : List Byte) (ha : a' < a) :
    (m.writeList a l).read a' = m.read a' := by
  induction l generalizing m a with
  | nil => rfl
  | cons v l ih =>
    rw [Memory.writeList, ih _ (Memory.wf_write m h a v) (a + 1) (by omega),
      Memory.read_write_ne m h a a' v (by omega)]

/-- Past the bytes written, nothing changes. -/
theorem Memory.read_writeList_ge (m : Memory) (h : m.wf = true) (a a' : Nat) (l : List Byte)
    (ha : a + l.length ≤ a') : (m.writeList a l).read a' = m.read a' := by
  induction l generalizing m a with
  | nil => rfl
  | cons v l ih =>
    simp only [List.length_cons] at ha
    rw [Memory.writeList, ih _ (Memory.wf_write m h a v) (a + 1) (by omega),
      Memory.read_write_ne m h a a' v (by omega)]

/-- The bytes written are the bytes read back. -/
theorem Memory.readList_writeList (m : Memory) (h : m.wf = true) (a : Nat) (l : List Byte) :
    (m.writeList a l).readList a l.length = l := by
  induction l generalizing m a with
  | nil => rfl
  | cons v l ih =>
    rw [List.length_cons, Memory.readList, Memory.writeList,
      Memory.read_writeList_lt _ (Memory.wf_write m h a v) (a + 1) a l (by omega), Memory.read_write m h a v,
      ih _ (Memory.wf_write m h a v) (a + 1)]

@[simp] theorem Memory.length_readList (m : Memory) (a n : Nat) : (m.readList a n).length = n := by
  induction n generalizing a with
  | zero => rfl
  | succ n ih => simp [Memory.readList, ih]

/-- A byte of the list written. -/
theorem Memory.read_writeList (m : Memory) (h : m.wf = true) (a i : Nat) (l : List Byte) (hi : i < l.length) :
    (m.writeList a l).read (a + i) = l.getD i 0 := by
  induction l generalizing m a i with
  | nil => simp at hi
  | cons v l ih =>
    rw [Memory.writeList]
    cases i with
    | zero =>
      show ((m.write a v).writeList (a + 1) l).read a = v
      rw [Memory.read_writeList_lt _ (Memory.wf_write m h a v) (a + 1) a l (by omega),
        Memory.read_write m h a v]
    | succ i =>
      have := ih (m.write a v) (Memory.wf_write m h a v) (a + 1) i (by simpa using hi)
      rw [show a + (i + 1) = a + 1 + i by omega, this]
      rfl

/-- One byte more of a list read. -/
theorem Memory.readList_succ (m : Memory) (a n : Nat) :
    m.readList a (n + 1) = m.readList a n ++ [m.read (a + n)] := by
  induction n generalizing a with
  | zero => rfl
  | succ n ih =>
    rw [Memory.readList, ih (a + 1), Memory.readList, List.cons_append, Nat.add_right_comm, Nat.add_assoc a n 1]

theorem Memory.readList_write_ge (m : Memory) (h : m.wf = true) (a n b : Nat) (v : Byte) (hb : a + n ≤ b) :
    (m.write b v).readList a n = m.readList a n := by
  induction n generalizing a with
  | zero => rfl
  | succ n ih =>
    rw [Memory.readList, Memory.readList, ih (a + 1) (by omega), Memory.read_write_ne m h b a v (by omega)]

end Sys2Proof.Machine
end

