-- ==== Sys2Proof/Laws/State.lean ====
section
/-! SUPPORT. What each named update does to each field of the state: one lemma per update and field, so that no
proof unfolds a record update. -/

namespace Sys2Proof.Machine

/-! ### `flagsAccepted` -/

@[simp] theorem State.flagsAccepted_cfg (s : State) : (s.flagsAccepted).cfg = s.cfg := rfl
@[simp] theorem State.flagsAccepted_busy (s : State) : (s.flagsAccepted).busy = true := rfl
@[simp] theorem State.flagsAccepted_status (s : State) : (s.flagsAccepted).status = s.status := rfl
@[simp] theorem State.flagsAccepted_latch (s : State) : (s.flagsAccepted).latch = s.latch := rfl
@[simp] theorem State.flagsAccepted_u1 (s : State) : (s.flagsAccepted).u1 = s.u1 := rfl
@[simp] theorem State.flagsAccepted_u2 (s : State) : (s.flagsAccepted).u2 = s.u2 := rfl
@[simp] theorem State.flagsAccepted_u3 (s : State) : (s.flagsAccepted).u3 = s.u3 := rfl
@[simp] theorem State.flagsAccepted_done (s : State) : (s.flagsAccepted).done = s.done := rfl
@[simp] theorem State.flagsAccepted_hung (s : State) : (s.flagsAccepted).hung = s.hung := rfl
@[simp] theorem State.flagsAccepted_world (s : State) : (s.flagsAccepted).world = s.world := rfl

/-! ### `flagsDelivered` -/

@[simp] theorem State.flagsDelivered_cfg (st : Status) (s : State) : (s.flagsDelivered st).cfg = s.cfg := rfl
@[simp] theorem State.flagsDelivered_busy (st : Status) (s : State) : (s.flagsDelivered st).busy = false := rfl
@[simp] theorem State.flagsDelivered_status (st : Status) (s : State) :
    (s.flagsDelivered st).status = st.code := rfl
@[simp] theorem State.flagsDelivered_latch (st : Status) (s : State) : (s.flagsDelivered st).latch = s.latch := rfl
@[simp] theorem State.flagsDelivered_u1 (st : Status) (s : State) : (s.flagsDelivered st).u1 = s.u1 := rfl
@[simp] theorem State.flagsDelivered_u2 (st : Status) (s : State) : (s.flagsDelivered st).u2 = s.u2 := rfl
@[simp] theorem State.flagsDelivered_u3 (st : Status) (s : State) : (s.flagsDelivered st).u3 = s.u3 := rfl
@[simp] theorem State.flagsDelivered_done (st : Status) (s : State) : (s.flagsDelivered st).done = s.done := rfl
@[simp] theorem State.flagsDelivered_hung (st : Status) (s : State) : (s.flagsDelivered st).hung = s.hung := rfl
@[simp] theorem State.flagsDelivered_world (st : Status) (s : State) : (s.flagsDelivered st).world = s.world := rfl

/-! ### `log` -/

@[simp] theorem State.log_cfg (e : Event) (s : State) : (s.log e).cfg = s.cfg := rfl
@[simp] theorem State.log_busy (e : Event) (s : State) : (s.log e).busy = s.busy := rfl
@[simp] theorem State.log_status (e : Event) (s : State) : (s.log e).status = s.status := rfl
@[simp] theorem State.log_latch (e : Event) (s : State) : (s.log e).latch = s.latch := rfl
@[simp] theorem State.log_u1 (e : Event) (s : State) : (s.log e).u1 = s.u1 := rfl
@[simp] theorem State.log_u2 (e : Event) (s : State) : (s.log e).u2 = s.u2 := rfl
@[simp] theorem State.log_u3 (e : Event) (s : State) : (s.log e).u3 = s.u3 := rfl
@[simp] theorem State.log_done (e : Event) (s : State) : (s.log e).done = s.done := rfl
@[simp] theorem State.log_hung (e : Event) (s : State) : (s.log e).hung = s.hung := rfl
@[simp] theorem State.log_world (e : Event) (s : State) :
    (s.log e).world = { s.world with hist := s.world.hist ++ [e] } := rfl

/-! ### `answered` -/

@[simp] theorem State.answered_cfg (arrived : List Byte) (s : State) : (s.answered arrived).cfg = s.cfg := rfl
@[simp] theorem State.answered_busy (arrived : List Byte) (s : State) : (s.answered arrived).busy = s.busy := rfl
@[simp] theorem State.answered_status (arrived : List Byte) (s : State) :
    (s.answered arrived).status = s.status := rfl
@[simp] theorem State.answered_latch (arrived : List Byte) (s : State) : (s.answered arrived).latch = s.latch := rfl
@[simp] theorem State.answered_u1 (arrived : List Byte) (s : State) : (s.answered arrived).u1 = s.u1 := rfl
@[simp] theorem State.answered_u2 (arrived : List Byte) (s : State) : (s.answered arrived).u2 = s.u2 := rfl
@[simp] theorem State.answered_u3 (arrived : List Byte) (s : State) : (s.answered arrived).u3 = s.u3 := rfl
@[simp] theorem State.answered_done (arrived : List Byte) (s : State) : (s.answered arrived).done = s.done := rfl
@[simp] theorem State.answered_hung (arrived : List Byte) (s : State) : (s.answered arrived).hung = s.hung := rfl
@[simp] theorem State.answered_world (arrived : List Byte) (s : State) : (s.answered arrived).world = { s.world with
      env := s.world.env.tail
      calls := s.world.calls + 1
      rxIn := s.world.rxIn ++ arrived } := rfl

/-! ### `hang` -/

@[simp] theorem State.hang_cfg (s : State) : (s.hang).cfg = s.cfg := rfl
@[simp] theorem State.hang_busy (s : State) : (s.hang).busy = s.busy := rfl
@[simp] theorem State.hang_status (s : State) : (s.hang).status = s.status := rfl
@[simp] theorem State.hang_latch (s : State) : (s.hang).latch = s.latch := rfl
@[simp] theorem State.hang_u1 (s : State) : (s.hang).u1 = s.u1 := rfl
@[simp] theorem State.hang_u2 (s : State) : (s.hang).u2 = s.u2 := rfl
@[simp] theorem State.hang_u3 (s : State) : (s.hang).u3 = s.u3 := rfl
@[simp] theorem State.hang_done (s : State) : (s.hang).done = s.done := rfl
@[simp] theorem State.hang_hung (s : State) : (s.hang).hung = true := rfl
@[simp] theorem State.hang_world (s : State) : (s.hang).world = (s.answered []).world := rfl

/-! ### `rxFlush` -/

@[simp] theorem State.rxFlush_cfg (s : State) : (s.rxFlush).cfg = s.cfg := rfl
@[simp] theorem State.rxFlush_busy (s : State) : (s.rxFlush).busy = s.busy := rfl
@[simp] theorem State.rxFlush_status (s : State) : (s.rxFlush).status = s.status := rfl
@[simp] theorem State.rxFlush_latch (s : State) : (s.rxFlush).latch = s.latch := rfl
@[simp] theorem State.rxFlush_u1 (s : State) : (s.rxFlush).u1 = s.u1 := rfl
@[simp] theorem State.rxFlush_u2 (s : State) : (s.rxFlush).u2 = s.u2 := rfl
@[simp] theorem State.rxFlush_u3 (s : State) : (s.rxFlush).u3 = s.u3 := rfl
@[simp] theorem State.rxFlush_done (s : State) : (s.rxFlush).done = s.done := rfl
@[simp] theorem State.rxFlush_hung (s : State) : (s.rxFlush).hung = s.hung := rfl
@[simp] theorem State.rxFlush_world (s : State) :
    (s.rxFlush).world = { s.world with rxIn := [], hist := s.world.hist ++ [.flush] } := rfl

/-! ### `txWrite` -/

@[simp] theorem State.txWrite_cfg (b : List Byte) (s : State) : (s.txWrite b).cfg = s.cfg := rfl
@[simp] theorem State.txWrite_busy (b : List Byte) (s : State) : (s.txWrite b).busy = s.busy := rfl
@[simp] theorem State.txWrite_status (b : List Byte) (s : State) : (s.txWrite b).status = s.status := rfl
@[simp] theorem State.txWrite_latch (b : List Byte) (s : State) : (s.txWrite b).latch = s.latch := rfl
@[simp] theorem State.txWrite_u1 (b : List Byte) (s : State) : (s.txWrite b).u1 = s.u1 := rfl
@[simp] theorem State.txWrite_u2 (b : List Byte) (s : State) : (s.txWrite b).u2 = s.u2 := rfl
@[simp] theorem State.txWrite_u3 (b : List Byte) (s : State) : (s.txWrite b).u3 = s.u3 := rfl
@[simp] theorem State.txWrite_done (b : List Byte) (s : State) : (s.txWrite b).done = s.done := rfl
@[simp] theorem State.txWrite_hung (b : List Byte) (s : State) : (s.txWrite b).hung = s.hung := rfl
@[simp] theorem State.txWrite_world (b : List Byte) (s : State) :
    (s.txWrite b).world = { s.world with hist := s.world.hist ++ [.write b] } := rfl

/-! ### `rxRead` -/

@[simp] theorem State.rxRead_cfg (n : Nat) (s : State) : (s.rxRead n).cfg = s.cfg := rfl
@[simp] theorem State.rxRead_busy (n : Nat) (s : State) : (s.rxRead n).busy = s.busy := rfl
@[simp] theorem State.rxRead_status (n : Nat) (s : State) : (s.rxRead n).status = s.status := rfl
@[simp] theorem State.rxRead_latch (n : Nat) (s : State) : (s.rxRead n).latch = s.latch := rfl
@[simp] theorem State.rxRead_u1 (n : Nat) (s : State) : (s.rxRead n).u1 = s.u1 := rfl
@[simp] theorem State.rxRead_u2 (n : Nat) (s : State) : (s.rxRead n).u2 = s.u2 := rfl
@[simp] theorem State.rxRead_u3 (n : Nat) (s : State) : (s.rxRead n).u3 = s.u3 := rfl
@[simp] theorem State.rxRead_done (n : Nat) (s : State) : (s.rxRead n).done = s.done := rfl
@[simp] theorem State.rxRead_hung (n : Nat) (s : State) : (s.rxRead n).hung = s.hung := rfl
@[simp] theorem State.rxRead_world (n : Nat) (s : State) : (s.rxRead n).world = { s.world with
      rxIn := s.world.rxIn.drop n
      hist := s.world.hist ++ [.read n (s.world.rxIn.take n)] } := rfl

/-! ### `delay` -/

@[simp] theorem State.delay_cfg (d : Nat) (s : State) : (s.delay d).cfg = s.cfg := rfl
@[simp] theorem State.delay_busy (d : Nat) (s : State) : (s.delay d).busy = s.busy := rfl
@[simp] theorem State.delay_status (d : Nat) (s : State) : (s.delay d).status = s.status := rfl
@[simp] theorem State.delay_latch (d : Nat) (s : State) : (s.delay d).latch = s.latch := rfl
@[simp] theorem State.delay_u1 (d : Nat) (s : State) : (s.delay d).u1 = s.u1 := rfl
@[simp] theorem State.delay_u2 (d : Nat) (s : State) : (s.delay d).u2 = s.u2 := rfl
@[simp] theorem State.delay_u3 (d : Nat) (s : State) : (s.delay d).u3 = s.u3 := rfl
@[simp] theorem State.delay_done (d : Nat) (s : State) : (s.delay d).done = s.done := rfl
@[simp] theorem State.delay_hung (d : Nat) (s : State) : (s.delay d).hung = s.hung := rfl
@[simp] theorem State.delay_world (d : Nat) (s : State) :
    (s.delay d).world = { s.world with hist := s.world.hist ++ [.delay d] } := rfl

/-! ### `accept` -/

@[simp] theorem State.accept_cfg (l : Latch) (s : State) : (s.accept l).cfg = s.cfg := rfl
@[simp] theorem State.accept_busy (l : Latch) (s : State) : (s.accept l).busy = true := rfl
@[simp] theorem State.accept_status (l : Latch) (s : State) : (s.accept l).status = s.status := rfl
@[simp] theorem State.accept_latch (l : Latch) (s : State) : (s.accept l).latch = l := rfl
@[simp] theorem State.accept_u1 (l : Latch) (s : State) : (s.accept l).u1 = s.u1 := rfl
@[simp] theorem State.accept_u2 (l : Latch) (s : State) : (s.accept l).u2 = s.u2 := rfl
@[simp] theorem State.accept_u3 (l : Latch) (s : State) : (s.accept l).u3 = s.u3 := rfl
@[simp] theorem State.accept_done (l : Latch) (s : State) : (s.accept l).done = s.done := rfl
@[simp] theorem State.accept_hung (l : Latch) (s : State) : (s.accept l).hung = s.hung := rfl
@[simp] theorem State.accept_world (l : Latch) (s : State) :
    (s.accept l).world = { s.world with hist := s.world.hist ++ [.cmd l] } := rfl

/-! ### `finish` -/

@[simp] theorem State.finish_cfg (r : Rsp) (s : State) : (s.finish r).cfg = s.cfg := rfl
@[simp] theorem State.finish_busy (r : Rsp) (s : State) : (s.finish r).busy = s.busy := rfl
@[simp] theorem State.finish_status (r : Rsp) (s : State) : (s.finish r).status = s.status := rfl
@[simp] theorem State.finish_latch (r : Rsp) (s : State) : (s.finish r).latch = s.latch := rfl
@[simp] theorem State.finish_u1 (r : Rsp) (s : State) : (s.finish r).u1 = { s.u1 with phase := .idle } := rfl
@[simp] theorem State.finish_u2 (r : Rsp) (s : State) : (s.finish r).u2 = { s.u2 with phase := .idle } := rfl
@[simp] theorem State.finish_u3 (r : Rsp) (s : State) : (s.finish r).u3 = { s.u3 with phase := .idle } := rfl
@[simp] theorem State.finish_done (r : Rsp) (s : State) : (s.finish r).done = some r := rfl
@[simp] theorem State.finish_hung (r : Rsp) (s : State) : (s.finish r).hung = s.hung := rfl
@[simp] theorem State.finish_world (r : Rsp) (s : State) : (s.finish r).world = s.world := rfl

/-! ### `fail` -/

@[simp] theorem State.fail_cfg (e : Status) (s : State) : (s.fail e).cfg = s.cfg := rfl
@[simp] theorem State.fail_busy (e : Status) (s : State) : (s.fail e).busy = s.busy := rfl
@[simp] theorem State.fail_status (e : Status) (s : State) : (s.fail e).status = s.status := rfl
@[simp] theorem State.fail_latch (e : Status) (s : State) : (s.fail e).latch = s.latch := rfl
@[simp] theorem State.fail_u1 (e : Status) (s : State) : (s.fail e).u1 = { s.u1 with phase := .idle } := rfl
@[simp] theorem State.fail_u2 (e : Status) (s : State) : (s.fail e).u2 = { s.u2 with phase := .idle } := rfl
@[simp] theorem State.fail_u3 (e : Status) (s : State) : (s.fail e).u3 = { s.u3 with phase := .idle } := rfl
@[simp] theorem State.fail_done (e : Status) (s : State) : (s.fail e).done = some ⟨e, .none⟩ := rfl
@[simp] theorem State.fail_hung (e : Status) (s : State) : (s.fail e).hung = s.hung := rfl
@[simp] theorem State.fail_world (e : Status) (s : State) : (s.fail e).world = s.world := rfl

/-! ### `succeed` -/

@[simp] theorem State.succeed_cfg (d : Data) (s : State) : (s.succeed d).cfg = s.cfg := rfl
@[simp] theorem State.succeed_busy (d : Data) (s : State) : (s.succeed d).busy = s.busy := rfl
@[simp] theorem State.succeed_status (d : Data) (s : State) : (s.succeed d).status = s.status := rfl
@[simp] theorem State.succeed_latch (d : Data) (s : State) : (s.succeed d).latch = s.latch := rfl
@[simp] theorem State.succeed_u1 (d : Data) (s : State) : (s.succeed d).u1 = { s.u1 with phase := .idle } := rfl
@[simp] theorem State.succeed_u2 (d : Data) (s : State) : (s.succeed d).u2 = { s.u2 with phase := .idle } := rfl
@[simp] theorem State.succeed_u3 (d : Data) (s : State) : (s.succeed d).u3 = { s.u3 with phase := .idle } := rfl
@[simp] theorem State.succeed_done (d : Data) (s : State) : (s.succeed d).done = some ⟨.ok, d⟩ := rfl
@[simp] theorem State.succeed_hung (d : Data) (s : State) : (s.succeed d).hung = s.hung := rfl
@[simp] theorem State.succeed_world (d : Data) (s : State) : (s.succeed d).world = s.world := rfl

/-! ### `deliver` -/

@[simp] theorem State.deliver_cfg (r : Rsp) (s : State) : (s.deliver r).cfg = s.cfg := rfl
@[simp] theorem State.deliver_busy (r : Rsp) (s : State) : (s.deliver r).busy = false := rfl
@[simp] theorem State.deliver_status (r : Rsp) (s : State) : (s.deliver r).status = r.status.code := rfl
@[simp] theorem State.deliver_latch (r : Rsp) (s : State) : (s.deliver r).latch = s.latch := rfl
@[simp] theorem State.deliver_u1 (r : Rsp) (s : State) : (s.deliver r).u1 = s.u1 := rfl
@[simp] theorem State.deliver_u2 (r : Rsp) (s : State) : (s.deliver r).u2 = s.u2 := rfl
@[simp] theorem State.deliver_u3 (r : Rsp) (s : State) : (s.deliver r).u3 = s.u3 := rfl
@[simp] theorem State.deliver_done (r : Rsp) (s : State) : (s.deliver r).done = none := rfl
@[simp] theorem State.deliver_hung (r : Rsp) (s : State) : (s.deliver r).hung = s.hung := rfl
@[simp] theorem State.deliver_world (r : Rsp) (s : State) :
    (s.deliver r).world = { s.world with hist := s.world.hist ++ [.rsp r] } := rfl

/-! ### `startXact` -/

@[simp] theorem State.startXact_cfg (p c t : Byte) (l : List Byte) (n : Nat) (f : Bool) (s : State) :
    (s.startXact p c t l n f).cfg = s.cfg := rfl
@[simp] theorem State.startXact_busy (p c t : Byte) (l : List Byte) (n : Nat) (f : Bool) (s : State) :
    (s.startXact p c t l n f).busy = s.busy := rfl
@[simp] theorem State.startXact_status (p c t : Byte) (l : List Byte) (n : Nat) (f : Bool) (s : State) :
    (s.startXact p c t l n f).status = s.status := rfl
@[simp] theorem State.startXact_latch (p c t : Byte) (l : List Byte) (n : Nat) (f : Bool) (s : State) :
    (s.startXact p c t l n f).latch = s.latch := rfl
@[simp] theorem State.startXact_u1 (p c t : Byte) (l : List Byte) (n : Nat) (f : Bool) (s : State) :
    (s.startXact p c t l n f).u1 = { s.u1 with
      phase := if f then .flush else .send
      txbuf := s.u1.txbuf.writeList 0 (buildFrame p c t l)
      txlen := BitVec.ofNat 9 (l.length + 6)
      expTxid := t
      expLen := BitVec.ofNat 8 n
      rxcnt := 0 } := rfl
@[simp] theorem State.startXact_u2 (p c t : Byte) (l : List Byte) (n : Nat) (f : Bool) (s : State) :
    (s.startXact p c t l n f).u2 = s.u2 := rfl
@[simp] theorem State.startXact_u3 (p c t : Byte) (l : List Byte) (n : Nat) (f : Bool) (s : State) :
    (s.startXact p c t l n f).u3 = s.u3 := rfl
@[simp] theorem State.startXact_done (p c t : Byte) (l : List Byte) (n : Nat) (f : Bool) (s : State) :
    (s.startXact p c t l n f).done = s.done := rfl
@[simp] theorem State.startXact_hung (p c t : Byte) (l : List Byte) (n : Nat) (f : Bool) (s : State) :
    (s.startXact p c t l n f).hung = s.hung := rfl
@[simp] theorem State.startXact_world (p c t : Byte) (l : List Byte) (n : Nat) (f : Bool) (s : State) :
    (s.startXact p c t l n f).world = s.world := rfl

/-! ### `flushStep` -/

@[simp] theorem State.flushStep_cfg (s : State) : (s.flushStep).cfg = s.cfg := rfl
@[simp] theorem State.flushStep_busy (s : State) : (s.flushStep).busy = s.busy := rfl
@[simp] theorem State.flushStep_status (s : State) : (s.flushStep).status = s.status := rfl
@[simp] theorem State.flushStep_latch (s : State) : (s.flushStep).latch = s.latch := rfl
@[simp] theorem State.flushStep_u1 (s : State) : (s.flushStep).u1 = { s.u1 with phase := .send } := rfl
@[simp] theorem State.flushStep_u2 (s : State) : (s.flushStep).u2 = s.u2 := rfl
@[simp] theorem State.flushStep_u3 (s : State) : (s.flushStep).u3 = s.u3 := rfl
@[simp] theorem State.flushStep_done (s : State) : (s.flushStep).done = s.done := rfl
@[simp] theorem State.flushStep_hung (s : State) : (s.flushStep).hung = s.hung := rfl
@[simp] theorem State.flushStep_world (s : State) :
    (s.flushStep).world = { s.world with rxIn := [], hist := s.world.hist ++ [.flush] } := rfl

/-! ### `sendStep` -/

@[simp] theorem State.sendStep_cfg (s : State) : (s.sendStep).cfg = s.cfg := rfl
@[simp] theorem State.sendStep_busy (s : State) : (s.sendStep).busy = s.busy := rfl
@[simp] theorem State.sendStep_status (s : State) : (s.sendStep).status = s.status := rfl
@[simp] theorem State.sendStep_latch (s : State) : (s.sendStep).latch = s.latch := rfl
@[simp] theorem State.sendStep_u1 (s : State) : (s.sendStep).u1 = { s.u1 with phase := .recv } := rfl
@[simp] theorem State.sendStep_u2 (s : State) : (s.sendStep).u2 = s.u2 := rfl
@[simp] theorem State.sendStep_u3 (s : State) : (s.sendStep).u3 = s.u3 := rfl
@[simp] theorem State.sendStep_done (s : State) : (s.sendStep).done = s.done := rfl
@[simp] theorem State.sendStep_hung (s : State) : (s.sendStep).hung = s.hung := rfl
@[simp] theorem State.sendStep_world (s : State) :
    (s.sendStep).world = { s.world with hist := s.world.hist ++ [.write s.txFrame] } := rfl

/-! ### `recvStep` -/

@[simp] theorem State.recvStep_cfg (s : State) : (s.recvStep).cfg = s.cfg := rfl
@[simp] theorem State.recvStep_busy (s : State) : (s.recvStep).busy = s.busy := rfl
@[simp] theorem State.recvStep_status (s : State) : (s.recvStep).status = s.status := rfl
@[simp] theorem State.recvStep_latch (s : State) : (s.recvStep).latch = s.latch := rfl
@[simp] theorem State.recvStep_u1 (s : State) : (s.recvStep).u1 = { s.u1 with
      phase := .idle
      rxbuf := s.u1.rxbuf.writeList 0 (s.rxBytes s.rxExpected)
      rxcnt := BitVec.ofNat 8 (s.rxBytes s.rxExpected).length } := rfl
@[simp] theorem State.recvStep_u2 (s : State) : (s.recvStep).u2 = s.u2 := rfl
@[simp] theorem State.recvStep_u3 (s : State) : (s.recvStep).u3 = s.u3 := rfl
@[simp] theorem State.recvStep_done (s : State) : (s.recvStep).done = s.done := rfl
@[simp] theorem State.recvStep_hung (s : State) : (s.recvStep).hung = s.hung := rfl
@[simp] theorem State.recvStep_world (s : State) : (s.recvStep).world = { s.world with
      rxIn := s.world.rxIn.drop s.rxExpected
      hist := s.world.hist ++ [.read s.rxExpected (s.rxBytes s.rxExpected)] } := rfl

/-! ### `delayStep` -/

@[simp] theorem State.delayStep_cfg (s : State) : (s.delayStep).cfg = s.cfg := rfl
@[simp] theorem State.delayStep_busy (s : State) : (s.delayStep).busy = s.busy := rfl
@[simp] theorem State.delayStep_status (s : State) : (s.delayStep).status = s.status := rfl
@[simp] theorem State.delayStep_latch (s : State) : (s.delayStep).latch = s.latch := rfl
@[simp] theorem State.delayStep_u1 (s : State) : (s.delayStep).u1 = s.u1 := rfl
@[simp] theorem State.delayStep_u2 (s : State) : (s.delayStep).u2 = s.u2 := rfl
@[simp] theorem State.delayStep_u3 (s : State) : (s.delayStep).u3 = s.u3 := rfl
@[simp] theorem State.delayStep_done (s : State) : (s.delayStep).done = s.done := rfl
@[simp] theorem State.delayStep_hung (s : State) : (s.delayStep).hung = s.hung := rfl
@[simp] theorem State.delayStep_world (s : State) :
    (s.delayStep).world = { s.world with hist := s.world.hist ++ [.delay s.cfg.settleDelay] } := rfl

/-! ### `noSettle` -/

@[simp] theorem State.noSettle_cfg (s : State) : (s.noSettle).cfg = s.cfg := rfl
@[simp] theorem State.noSettle_busy (s : State) : (s.noSettle).busy = s.busy := rfl
@[simp] theorem State.noSettle_status (s : State) : (s.noSettle).status = s.status := rfl
@[simp] theorem State.noSettle_latch (s : State) : (s.noSettle).latch = s.latch := rfl
@[simp] theorem State.noSettle_u1 (s : State) : (s.noSettle).u1 = s.u1 := rfl
@[simp] theorem State.noSettle_u2 (s : State) : (s.noSettle).u2 = s.u2 := rfl
@[simp] theorem State.noSettle_u3 (s : State) : (s.noSettle).u3 = s.u3 := rfl
@[simp] theorem State.noSettle_done (s : State) : (s.noSettle).done = s.done := rfl
@[simp] theorem State.noSettle_hung (s : State) : (s.noSettle).hung = s.hung := rfl
@[simp] theorem State.noSettle_world (s : State) : (s.noSettle).world = s.world := rfl

/-! ### `startWrite` -/

@[simp] theorem State.startWrite_cfg (p a g v t : Byte) (s : State) : (s.startWrite p a g v t).cfg = s.cfg := rfl
@[simp] theorem State.startWrite_busy (p a g v t : Byte) (s : State) : (s.startWrite p a g v t).busy = s.busy := rfl
@[simp] theorem State.startWrite_status (p a g v t : Byte) (s : State) :
    (s.startWrite p a g v t).status = s.status := rfl
@[simp] theorem State.startWrite_latch (p a g v t : Byte) (s : State) :
    (s.startWrite p a g v t).latch = s.latch := rfl
@[simp] theorem State.startWrite_u1 (p a g v t : Byte) (s : State) :
    (s.startWrite p a g v t).u1 =
      (s.startXact p i2cCmdWrite t (wrPayload s.cfg a g v) (wrRspLen - hdrRsp) s.cfg.flushBeforeWrite).u1 := rfl
@[simp] theorem State.startWrite_u2 (p a g v t : Byte) (s : State) : (s.startWrite p a g v t).u2 = s.u2 := rfl
@[simp] theorem State.startWrite_u3 (p a g v t : Byte) (s : State) : (s.startWrite p a g v t).u3 = s.u3 := rfl
@[simp] theorem State.startWrite_done (p a g v t : Byte) (s : State) : (s.startWrite p a g v t).done = s.done := rfl
@[simp] theorem State.startWrite_hung (p a g v t : Byte) (s : State) : (s.startWrite p a g v t).hung = s.hung := rfl
@[simp] theorem State.startWrite_world (p a g v t : Byte) (s : State) :
    (s.startWrite p a g v t).world = s.world := rfl

/-! ### `sqIdle` -/

@[simp] theorem State.sqIdle_cfg (s : State) : (s.sqIdle).cfg = s.cfg := rfl
@[simp] theorem State.sqIdle_busy (s : State) : (s.sqIdle).busy = s.busy := rfl
@[simp] theorem State.sqIdle_status (s : State) : (s.sqIdle).status = s.status := rfl
@[simp] theorem State.sqIdle_latch (s : State) : (s.sqIdle).latch = s.latch := rfl
@[simp] theorem State.sqIdle_u1 (s : State) : (s.sqIdle).u1 = s.u1 := rfl
@[simp] theorem State.sqIdle_u2 (s : State) : (s.sqIdle).u2 = { s.u2 with phase := .idle } := rfl
@[simp] theorem State.sqIdle_u3 (s : State) : (s.sqIdle).u3 = s.u3 := rfl
@[simp] theorem State.sqIdle_done (s : State) : (s.sqIdle).done = s.done := rfl
@[simp] theorem State.sqIdle_hung (s : State) : (s.sqIdle).hung = s.hung := rfl
@[simp] theorem State.sqIdle_world (s : State) : (s.sqIdle).world = s.world := rfl

/-! ### `sqNext` -/

@[simp] theorem State.sqNext_cfg (s : State) : (s.sqNext).cfg = s.cfg := rfl
@[simp] theorem State.sqNext_busy (s : State) : (s.sqNext).busy = s.busy := rfl
@[simp] theorem State.sqNext_status (s : State) : (s.sqNext).status = s.status := rfl
@[simp] theorem State.sqNext_latch (s : State) : (s.sqNext).latch = s.latch := rfl
@[simp] theorem State.sqNext_u1 (s : State) : (s.sqNext).u1 = s.u1 := rfl
@[simp] theorem State.sqNext_u2 (s : State) : (s.sqNext).u2 = { s.u2 with idx := s.u2.idx + 1 } := rfl
@[simp] theorem State.sqNext_u3 (s : State) : (s.sqNext).u3 = s.u3 := rfl
@[simp] theorem State.sqNext_done (s : State) : (s.sqNext).done = s.done := rfl
@[simp] theorem State.sqNext_hung (s : State) : (s.sqNext).hung = s.hung := rfl
@[simp] theorem State.sqNext_world (s : State) : (s.sqNext).world = s.world := rfl

/-! ### `loadWriteSeq` -/

@[simp] theorem State.loadWriteSeq_cfg (b : List Byte) (s : State) : (s.loadWriteSeq b).cfg = s.cfg := rfl
@[simp] theorem State.loadWriteSeq_busy (b : List Byte) (s : State) : (s.loadWriteSeq b).busy = s.busy := rfl
@[simp] theorem State.loadWriteSeq_status (b : List Byte) (s : State) : (s.loadWriteSeq b).status = s.status := rfl
@[simp] theorem State.loadWriteSeq_latch (b : List Byte) (s : State) : (s.loadWriteSeq b).latch = s.latch := rfl
@[simp] theorem State.loadWriteSeq_u1 (b : List Byte) (s : State) : (s.loadWriteSeq b).u1 = s.u1 := rfl
@[simp] theorem State.loadWriteSeq_u2 (b : List Byte) (s : State) :
    (s.loadWriteSeq b).u2 =
      { phase := .wr, idx := 0, cnt := BitVec.ofNat 9 b.length, buf := s.u2.buf.writeList 0 b } := rfl
@[simp] theorem State.loadWriteSeq_u3 (b : List Byte) (s : State) : (s.loadWriteSeq b).u3 = s.u3 := rfl
@[simp] theorem State.loadWriteSeq_done (b : List Byte) (s : State) : (s.loadWriteSeq b).done = s.done := rfl
@[simp] theorem State.loadWriteSeq_hung (b : List Byte) (s : State) : (s.loadWriteSeq b).hung = s.hung := rfl
@[simp] theorem State.loadWriteSeq_world (b : List Byte) (s : State) : (s.loadWriteSeq b).world = s.world := rfl

/-! ### `loadReadSeq` -/

@[simp] theorem State.loadReadSeq_cfg (c : Nat) (s : State) : (s.loadReadSeq c).cfg = s.cfg := rfl
@[simp] theorem State.loadReadSeq_busy (c : Nat) (s : State) : (s.loadReadSeq c).busy = s.busy := rfl
@[simp] theorem State.loadReadSeq_status (c : Nat) (s : State) : (s.loadReadSeq c).status = s.status := rfl
@[simp] theorem State.loadReadSeq_latch (c : Nat) (s : State) : (s.loadReadSeq c).latch = s.latch := rfl
@[simp] theorem State.loadReadSeq_u1 (c : Nat) (s : State) : (s.loadReadSeq c).u1 = s.u1 := rfl
@[simp] theorem State.loadReadSeq_u2 (c : Nat) (s : State) :
    (s.loadReadSeq c).u2 = { s.u2 with phase := .rd, idx := 0, cnt := BitVec.ofNat 9 c } := rfl
@[simp] theorem State.loadReadSeq_u3 (c : Nat) (s : State) : (s.loadReadSeq c).u3 = s.u3 := rfl
@[simp] theorem State.loadReadSeq_done (c : Nat) (s : State) : (s.loadReadSeq c).done = s.done := rfl
@[simp] theorem State.loadReadSeq_hung (c : Nat) (s : State) : (s.loadReadSeq c).hung = s.hung := rfl
@[simp] theorem State.loadReadSeq_world (c : Nat) (s : State) : (s.loadReadSeq c).world = s.world := rfl

/-! ### `sqStore` -/

@[simp] theorem State.sqStore_cfg (b : Byte) (s : State) : (s.sqStore b).cfg = s.cfg := rfl
@[simp] theorem State.sqStore_busy (b : Byte) (s : State) : (s.sqStore b).busy = s.busy := rfl
@[simp] theorem State.sqStore_status (b : Byte) (s : State) : (s.sqStore b).status = s.status := rfl
@[simp] theorem State.sqStore_latch (b : Byte) (s : State) : (s.sqStore b).latch = s.latch := rfl
@[simp] theorem State.sqStore_u1 (b : Byte) (s : State) : (s.sqStore b).u1 = s.u1 := rfl
@[simp] theorem State.sqStore_u2 (b : Byte) (s : State) :
    (s.sqStore b).u2 = { s.u2 with buf := s.u2.buf.write s.u2.idx.toNat b } := rfl
@[simp] theorem State.sqStore_u3 (b : Byte) (s : State) : (s.sqStore b).u3 = s.u3 := rfl
@[simp] theorem State.sqStore_done (b : Byte) (s : State) : (s.sqStore b).done = s.done := rfl
@[simp] theorem State.sqStore_hung (b : Byte) (s : State) : (s.sqStore b).hung = s.hung := rfl
@[simp] theorem State.sqStore_world (b : Byte) (s : State) : (s.sqStore b).world = s.world := rfl

/-! ### `psPhase` -/

@[simp] theorem State.psPhase_cfg (p : PsPhase) (s : State) : (s.psPhase p).cfg = s.cfg := rfl
@[simp] theorem State.psPhase_busy (p : PsPhase) (s : State) : (s.psPhase p).busy = s.busy := rfl
@[simp] theorem State.psPhase_status (p : PsPhase) (s : State) : (s.psPhase p).status = s.status := rfl
@[simp] theorem State.psPhase_latch (p : PsPhase) (s : State) : (s.psPhase p).latch = s.latch := rfl
@[simp] theorem State.psPhase_u1 (p : PsPhase) (s : State) : (s.psPhase p).u1 = s.u1 := rfl
@[simp] theorem State.psPhase_u2 (p : PsPhase) (s : State) : (s.psPhase p).u2 = s.u2 := rfl
@[simp] theorem State.psPhase_u3 (p : PsPhase) (s : State) : (s.psPhase p).u3 = { s.u3 with phase := p } := rfl
@[simp] theorem State.psPhase_done (p : PsPhase) (s : State) : (s.psPhase p).done = s.done := rfl
@[simp] theorem State.psPhase_hung (p : PsPhase) (s : State) : (s.psPhase p).hung = s.hung := rfl
@[simp] theorem State.psPhase_world (p : PsPhase) (s : State) : (s.psPhase p).world = s.world := rfl

/-! ### `loadPacket` -/

@[simp] theorem State.loadPacket_cfg (o : Byte) (f : List Byte) (s : State) : (s.loadPacket o f).cfg = s.cfg := rfl
@[simp] theorem State.loadPacket_busy (o : Byte) (f : List Byte) (s : State) :
    (s.loadPacket o f).busy = s.busy := rfl
@[simp] theorem State.loadPacket_status (o : Byte) (f : List Byte) (s : State) :
    (s.loadPacket o f).status = s.status := rfl
@[simp] theorem State.loadPacket_latch (o : Byte) (f : List Byte) (s : State) :
    (s.loadPacket o f).latch = s.latch := rfl
@[simp] theorem State.loadPacket_u1 (o : Byte) (f : List Byte) (s : State) : (s.loadPacket o f).u1 = s.u1 := rfl
@[simp] theorem State.loadPacket_u2 (o : Byte) (f : List Byte) (s : State) : (s.loadPacket o f).u2 = s.u2 := rfl
@[simp] theorem State.loadPacket_u3 (o : Byte) (f : List Byte) (s : State) : (s.loadPacket o f).u3 = { s.u3 with
      pkbuf := s.u3.pkbuf.writeList 0 (buildPacket o f), pklen := BitVec.ofNat 9 (f.length + 6) } := rfl
@[simp] theorem State.loadPacket_done (o : Byte) (f : List Byte) (s : State) :
    (s.loadPacket o f).done = s.done := rfl
@[simp] theorem State.loadPacket_hung (o : Byte) (f : List Byte) (s : State) :
    (s.loadPacket o f).hung = s.hung := rfl
@[simp] theorem State.loadPacket_world (o : Byte) (f : List Byte) (s : State) :
    (s.loadPacket o f).world = s.world := rfl

/-! ### `loadReply` -/

@[simp] theorem State.loadReply_cfg (b : List Byte) (s : State) : (s.loadReply b).cfg = s.cfg := rfl
@[simp] theorem State.loadReply_busy (b : List Byte) (s : State) : (s.loadReply b).busy = s.busy := rfl
@[simp] theorem State.loadReply_status (b : List Byte) (s : State) : (s.loadReply b).status = s.status := rfl
@[simp] theorem State.loadReply_latch (b : List Byte) (s : State) : (s.loadReply b).latch = s.latch := rfl
@[simp] theorem State.loadReply_u1 (b : List Byte) (s : State) : (s.loadReply b).u1 = s.u1 := rfl
@[simp] theorem State.loadReply_u2 (b : List Byte) (s : State) : (s.loadReply b).u2 = s.u2 := rfl
@[simp] theorem State.loadReply_u3 (b : List Byte) (s : State) : (s.loadReply b).u3 = { s.u3 with
      rpbuf := s.u3.rpbuf.writeList 0 b, rplen := BitVec.ofNat 8 b.length } := rfl
@[simp] theorem State.loadReply_done (b : List Byte) (s : State) : (s.loadReply b).done = s.done := rfl
@[simp] theorem State.loadReply_hung (b : List Byte) (s : State) : (s.loadReply b).hung = s.hung := rfl
@[simp] theorem State.loadReply_world (b : List Byte) (s : State) : (s.loadReply b).world = s.world := rfl

/-! ### `startRead` -/

@[simp] theorem State.startRead_cfg (p a : Byte) (g : Option Byte) (t : Byte) (s : State) :
    (s.startRead p a g t).cfg = s.cfg := by cases g <;> rfl
@[simp] theorem State.startRead_busy (p a : Byte) (g : Option Byte) (t : Byte) (s : State) :
    (s.startRead p a g t).busy = s.busy := by cases g <;> rfl
@[simp] theorem State.startRead_status (p a : Byte) (g : Option Byte) (t : Byte) (s : State) :
    (s.startRead p a g t).status = s.status := by cases g <;> rfl
@[simp] theorem State.startRead_latch (p a : Byte) (g : Option Byte) (t : Byte) (s : State) :
    (s.startRead p a g t).latch = s.latch := by cases g <;> rfl
@[simp] theorem State.startRead_u2 (p a : Byte) (g : Option Byte) (t : Byte) (s : State) :
    (s.startRead p a g t).u2 = s.u2 := by cases g <;> rfl
@[simp] theorem State.startRead_u3 (p a : Byte) (g : Option Byte) (t : Byte) (s : State) :
    (s.startRead p a g t).u3 = s.u3 := by cases g <;> rfl
@[simp] theorem State.startRead_done (p a : Byte) (g : Option Byte) (t : Byte) (s : State) :
    (s.startRead p a g t).done = s.done := by cases g <;> rfl
@[simp] theorem State.startRead_hung (p a : Byte) (g : Option Byte) (t : Byte) (s : State) :
    (s.startRead p a g t).hung = s.hung := by cases g <;> rfl
@[simp] theorem State.startRead_world (p a : Byte) (g : Option Byte) (t : Byte) (s : State) :
    (s.startRead p a g t).world = s.world := by cases g <;> rfl

/-! ### `tick` -/

@[simp] theorem State.tick_cfg (s : State) :
    (s.tick).cfg = s.cfg := by
  unfold State.tick; split <;> rfl
@[simp] theorem State.tick_busy (s : State) :
    (s.tick).busy = s.busy := by
  unfold State.tick; split <;> rfl
@[simp] theorem State.tick_status (s : State) :
    (s.tick).status = s.status := by
  unfold State.tick; split <;> rfl
@[simp] theorem State.tick_latch (s : State) :
    (s.tick).latch = s.latch := by
  unfold State.tick; split <;> rfl
@[simp] theorem State.tick_u1 (s : State) :
    (s.tick).u1 = s.u1 := by
  unfold State.tick; split <;> rfl
@[simp] theorem State.tick_u2 (s : State) :
    (s.tick).u2 = s.u2 := by
  unfold State.tick; split <;> rfl
@[simp] theorem State.tick_u3 (s : State) :
    (s.tick).u3 = s.u3 := by
  unfold State.tick; split <;> rfl
@[simp] theorem State.tick_done (s : State) :
    (s.tick).done = s.done := by
  unfold State.tick; split <;> rfl
@[simp] theorem State.tick_hung (s : State) :
    (s.tick).hung = s.hung := by
  unfold State.tick; split <;> rfl

/-! ### `finishWith` -/

@[simp] theorem State.finishWith_cfg (d : List Byte → Data) (q : XactResult) (s : State) :
    (s.finishWith d q).cfg = s.cfg := by cases q <;> rfl
@[simp] theorem State.finishWith_busy (d : List Byte → Data) (q : XactResult) (s : State) :
    (s.finishWith d q).busy = s.busy := by cases q <;> rfl
@[simp] theorem State.finishWith_status (d : List Byte → Data) (q : XactResult) (s : State) :
    (s.finishWith d q).status = s.status := by cases q <;> rfl
@[simp] theorem State.finishWith_latch (d : List Byte → Data) (q : XactResult) (s : State) :
    (s.finishWith d q).latch = s.latch := by cases q <;> rfl
@[simp] theorem State.finishWith_hung (d : List Byte → Data) (q : XactResult) (s : State) :
    (s.finishWith d q).hung = s.hung := by cases q <;> rfl
@[simp] theorem State.finishWith_world (d : List Byte → Data) (q : XactResult) (s : State) :
    (s.finishWith d q).world = s.world := by cases q <;> rfl

end Sys2Proof.Machine
end

