-- ==== Sys2Proof/Laws/Command.lean ====
section
/-! SUPPORT. What the shared operations of a command can do, said once: acceptance, the next call, delivery. A claim
about `exec` of a host command cites `exec_command` and then one of these lemmas, and unfolds neither. -/

namespace Sys2Proof.Machine

/-! ## Each meaning is `runCommand` of three parts -/

/-- What a command does in its acceptance step, after the record is latched. -/
def startOf : Instr → State → State
  | .fcBuild .. => startFcBuild
  | .fcParse .. => startFcParse
  | .fcXact .. => startFcXact
  | .i2cWrb .. => startI2cWrb
  | .i2cRdb .. => startI2cRdb
  | .i2cWrs .. => startI2cWrs
  | .i2cRds .. => startI2cRds
  | .psuBuild .. => startPsuBuild
  | .psuSend .. => startPsuSend
  | .psuRecv .. => startPsuRecv
  | .psuCmd .. => startPsuCmd
  | .psuGetHwver => startExchange 0x02 []
  | .psuCfgWdt _ => startPsuCfgWdt
  | .psuSetV _ => startPsuSetV
  | .psuGetV => startExchange 0x03 []
  | .psuMeasV => startExchange 0x04 []
  | .voltEnc _ => startVoltEnc
  | .voltDec _ => startVoltDec
  | .awEnc _ => startAwEnc
  | .awDec .. => startAwDec
  | _ => id

/-- What a command does after the settle delay. -/
def settledOf : Instr → State → State
  | .psuCmd .. => settledPsuCmd
  | .psuGetHwver => settledExchange defaultReplyCount .bytes
  | .psuCfgWdt _ => settledExchange defaultReplyCount .bytes
  | .psuSetV _ => settledExchange defaultReplyCount .bytes
  | .psuGetV => settledExchange defaultReplyCount getVData
  | .psuMeasV => settledExchange defaultReplyCount measVData
  | _ => State.noSettle

/-- What a running command does when it is neither stuck nor waiting for delivery. -/
def nextOf (i : Instr) : State → Result :=
  if i.calls then State.transport (afterOf (some i)) (settledOf i) else State.noCall

/-- A command that makes calls goes on with `transport`. -/
theorem nextOf_calls {i : Instr} (h : i.calls = true) :
    nextOf i = State.transport (afterOf (some i)) (settledOf i) := if_pos h

/-- A pure command has no step between acceptance and delivery. -/
theorem nextOf_pure {i : Instr} (h : ¬ i.calls = true) : nextOf i = State.noCall := if_neg h

/-- Every command's meaning is one step of the shared command machine. -/
theorem exec_command (i : Instr) (hi : i.channel = .cmd) (s : State) :
    exec i s = s.runCommand (latchOf i) (startOf i) (nextOf i) := by
  by_cases hc : i.calls = true
  · rw [nextOf_calls hc]
    cases i <;> first | exact Bool.noConfusion hc | rfl
  · rw [nextOf_pure hc]
    cases i <;> first | exact absurd rfl hc | exact Channel.noConfusion hi | rfl

/-- The latch of a command holds the command. -/
theorem latchOf_instr (i : Instr) (hi : i.channel = .cmd) : (latchOf i).instr = some i := by
  cases i with
  | i2cWrb p a r v t => cases t <;> rfl
  | i2cRdb p a r t => cases r <;> cases t <;> rfl
  | i2cRds p a r c => cases r <;> rfl
  | psuRecv a c => cases c <;> rfl
  | psuCmd o f c => cases c <;> rfl
  | awDec b c => cases c <;> rfl
  | _ => first | rfl | exact Channel.noConfusion hi

/-! ## One step of a command -/

theorem State.runCommand_accept (l : Latch) (start : State → State) (next : State → Result) (s : State)
    (h : s.busy = false) : s.runCommand l start next = .next (start (s.accept l)) := by
  simp [State.runCommand, h]

theorem State.runCommand_running (l : Latch) (start : State → State) (next : State → Result) (s : State)
    (h : s.busy = true) (hl : s.latch.instr = l.instr) : s.runCommand l start next = s.resume next := by
  simp [State.runCommand, h, hl]

theorem State.runCommand_other (l : Latch) (start : State → State) (next : State → Result) (s : State)
    (h : s.busy = true) (hl : s.latch.instr ≠ l.instr) : s.runCommand l start next = .next s := by
  simp [State.runCommand, h, hl]

theorem State.resume_hung (next : State → Result) (s : State) (h : s.hung = true) : s.resume next = .next s := by
  simp [State.resume, h]

theorem State.resume_deliver (next : State → Result) (s : State) (r : Rsp) (h : s.hung = false)
    (hd : s.done = some r) : s.resume next = .next (s.deliver r) := by
  simp [State.resume, h, hd]

theorem State.resume_next (next : State → Result) (s : State) (h : s.hung = false) (hd : s.done = none) :
    s.resume next = next s := by
  simp [State.resume, h, hd]

/-- A command in the middle of its calls takes its next one. -/
theorem exec_runs (i : Instr) (hi : i.channel = .cmd) (s : State) (h : s.runs i) : exec i s = nextOf i s := by
  rw [exec_command i hi, State.runCommand_running _ _ _ _ h.1 (h.2.1.trans (latchOf_instr i hi).symm),
    State.resume_next _ _ h.2.2.1 h.2.2.2]

/-! ## Calls -/

theorem State.call_returns (k : State → State) (s : State) (a : List Byte) (h : s.reply = .returns a) :
    s.call k = .next (k (s.answered a)) := by
  simp [State.call, h]

theorem State.call_never (k : State → State) (s : State) (h : s.reply = .never) : s.call k = .next s.hang := by
  simp [State.call, h]

variable (after : XactResult → State → State) (settled : State → State) (s : State)

theorem State.transport_flush (hb : s.inBounds = true) (h : s.u1.phase = .flush) :
    s.transport after settled = s.call State.flushStep := by
  simp [State.transport, hb, h]

theorem State.transport_send (hb : s.inBounds = true) (h : s.u1.phase = .send) :
    s.transport after settled = s.call State.sendStep := by
  simp [State.transport, hb, h]

theorem State.transport_recv (hb : s.inBounds = true) (h : s.u1.phase = .recv) :
    s.transport after settled = s.call fun t => after t.recvResult t.recvStep := by
  simp [State.transport, hb, h]

theorem State.transport_settle (hb : s.inBounds = true) (h : s.u1.phase = .idle) (hp : s.u3.phase = .settle) :
    s.transport after settled = s.call fun t => settled t.delayStep := by
  simp [State.transport, hb, h, hp]

/-- Everything the transport step of a running command can answer with a next state. -/
theorem State.transport_cases {t : State} (h : s.transport after settled = .next t) :
    s.inBounds = true ∧
    ((s.reply = .never ∧ t = s.hang) ∨
     ∃ a, s.reply = .returns a ∧
      ((s.u1.phase = .flush ∧ t = (s.answered a).flushStep) ∨
       (s.u1.phase = .send ∧ t = (s.answered a).sendStep) ∨
       (s.u1.phase = .recv ∧ t = after (s.answered a).recvResult (s.answered a).recvStep) ∨
       (s.u1.phase = .idle ∧ s.u3.phase = .settle ∧ t = settled (s.answered a).delayStep))) := by
  unfold State.transport at h
  split at h
  · cases h
  · next hb =>
    refine ⟨by simpa using hb, ?_⟩
    cases hr : s.reply with
    | never =>
      refine .inl ⟨rfl, ?_⟩
      split at h
      · simpa [State.call_never _ _ hr] using h.symm
      · simpa [State.call_never _ _ hr] using h.symm
      · simpa [State.call_never _ _ hr] using h.symm
      · split at h
        · simpa [State.call_never _ _ hr] using h.symm
        · cases h
    | returns a =>
      refine .inr ⟨a, rfl, ?_⟩
      split at h
      · next hp => exact .inl ⟨hp, by simpa [State.call_returns _ _ _ hr] using h.symm⟩
      · next hp => exact .inr (.inl ⟨hp, by simpa [State.call_returns _ _ _ hr] using h.symm⟩)
      · next hp => exact .inr (.inr (.inl ⟨hp, by simpa [State.call_returns _ _ _ hr] using h.symm⟩))
      · next hp =>
        split at h
        · next hs => exact .inr (.inr (.inr ⟨hp, hs, by simpa [State.call_returns _ _ _ hr] using h.symm⟩))
        · cases h

/-- Everything one step of a command can answer with a next state. -/
theorem exec_command_cases (i : Instr) (hi : i.channel = .cmd) {t : State} (h : exec i s = .next t) :
    (s.busy = false ∧ t = startOf i (s.accept (latchOf i))) ∨
    (s.busy = true ∧ s.latch.instr ≠ some i ∧ t = s) ∨
    (s.busy = true ∧ s.latch.instr = some i ∧ s.hung = true ∧ t = s) ∨
    (∃ r, s.busy = true ∧ s.latch.instr = some i ∧ s.hung = false ∧ s.done = some r ∧ t = s.deliver r) ∨
    (s.runs i ∧ i.calls = true ∧ s.transport (afterOf (some i)) (settledOf i) = .next t) := by
  rw [exec_command i hi] at h
  cases hb : s.busy with
  | false => rw [State.runCommand_accept _ _ _ _ hb] at h; cases h; exact .inl ⟨rfl, rfl⟩
  | true =>
    by_cases hl : s.latch.instr = some i
    · rw [State.runCommand_running _ _ _ _ hb (hl.trans (latchOf_instr i hi).symm)] at h
      cases hh : s.hung with
      | true => rw [State.resume_hung _ _ hh] at h; cases h; exact .inr (.inr (.inl ⟨rfl, hl, rfl, rfl⟩))
      | false =>
        cases hd : s.done with
        | some r =>
          rw [State.resume_deliver _ _ r hh hd] at h; cases h
          exact .inr (.inr (.inr (.inl ⟨r, rfl, hl, rfl, rfl, rfl⟩)))
        | none =>
          rw [State.resume_next _ _ hh hd, nextOf] at h
          split at h
          · next hc => exact .inr (.inr (.inr (.inr ⟨⟨hb, hl, hh, hd⟩, hc, h⟩)))
          · cases h
    · rw [State.runCommand_other _ _ _ _ hb (by rwa [latchOf_instr i hi])] at h; cases h
      exact .inr (.inl ⟨rfl, hl, rfl⟩)

end Sys2Proof.Machine
end

