-- ==== Sys2Proof/Laws/Decode.lean ====
section
/-! SUPPORT. The operand readers read back what the encoder wrote. -/

namespace Sys2Proof

@[simp] theorem take8_cons (b : Byte) (r : List Byte) : take8 (b :: r) = some (b, r) := rfl

theorem half_of_bytes (w : Half) : (w >>> 8).setWidth 8 ++ w.setWidth 8 = w := by
  apply BitVec.eq_of_getLsbD_eq
  intro i hi
  simp only [BitVec.getLsbD_append, BitVec.getLsbD_setWidth, BitVec.getLsbD_ushiftRight]
  by_cases h : i < 8
  · simp [h]
  · simp [h, show i - 8 < 8 by omega, show 8 + (i - 8) = i by omega]

@[simp] theorem take16_put16 (w : Half) (r : List Byte) : take16 (put16 w ++ r) = some (w, r) := by
  simp only [put16, List.cons_append, List.nil_append, take16, Option.some.injEq, Prod.mk.injEq, and_true]
  exact half_of_bytes w

@[simp] theorem takeBit_putBit (b : Bool) (r : List Byte) : takeBit (putBit b ++ r) = some (b, r) := by
  cases b <;> simp [putBit, takeBit]

@[simp] theorem takeOpt8_putOpt8 (o : Option Byte) (r : List Byte) : takeOpt8 (putOpt8 o ++ r) = some (o, r) := by
  cases o <;> simp [putOpt8, takeOpt8, takeBit]

@[simp] theorem takeOpt16_putOpt16 (o : Option Half) (r : List Byte) :
    takeOpt16 (putOpt16 o ++ r) = some (o, r) := by
  cases o with
  | none => simp [putOpt16, takeOpt16, takeBit, take16]
  | some w => simp [putOpt16, takeOpt16, takeBit]

@[simp] theorem takeExact_append (l r : List Byte) : takeExact l.length (l ++ r) = some (l, r) := by
  induction l with
  | nil => rfl
  | cons b l ih => simp [takeExact, ih]

theorem takeCount_putCountAs (q m : Nat) (r : List Byte) (h : m < 65535) :
    takeCount (putCountAs q m ++ r) = some (65535 * q + m, r) := by
  induction q with
  | zero =>
    have hlo : (BitVec.setWidth 8 (BitVec.ofNat 16 m)).toNat = m % 256 := by
      rw [BitVec.toNat_setWidth, BitVec.toNat_ofNat]; omega
    have hhi : (BitVec.setWidth 8 (BitVec.ofNat 16 m >>> 8)).toNat = m / 256 := by
      rw [BitVec.toNat_setWidth, BitVec.toNat_ushiftRight, BitVec.toNat_ofNat, Nat.shiftRight_eq_div_pow]; omega
    simp only [putCountAs, put16, List.cons_append, List.nil_append, takeCount]
    rw [if_neg (fun e => by rw [e.1] at hlo; rw [e.2] at hhi; simp at hlo hhi; omega), hlo, hhi]
    simp only [Option.some.injEq, Prod.mk.injEq, and_true]; omega
  | succ q ih =>
    simp only [putCountAs, List.cons_append, takeCount, and_self, if_true, ih, Option.map_some,
      Option.some.injEq, Prod.mk.injEq, and_true]
    omega

@[simp] theorem takeCount_putCount (n : Nat) (r : List Byte) : takeCount (putCount n ++ r) = some (n, r) := by
  rw [putCount, takeCount_putCountAs _ _ _ (Nat.mod_lt _ (by decide)), Nat.div_add_mod]

@[simp] theorem takeBytes_putBytes (l r : List Byte) : takeBytes (putBytes l ++ r) = some (l, r) := by
  simp [takeBytes, putBytes, List.append_assoc]

@[simp] theorem takeHalves_putHalves (l : List Half) (r : List Byte) :
    takeHalves l.length (putHalves l ++ r) = some (l, r) := by
  induction l with
  | nil => rfl
  | cons w l ih => simp [takeHalves, putHalves, List.append_assoc, ih]

@[simp] theorem takeWords_putWords (l : List Half) (r : List Byte) : takeWords (putWords l ++ r) = some (l, r) := by
  simp [takeWords, putWords, List.append_assoc]

/-- A record whose `op` is listed decodes to what its operand reader reads. -/
theorem decodeCommand_of {op : Byte} {bs rest : List Byte} {i : Instr}
    {read : List Byte → Option (Instr × List Byte)} (h : operandReader op.toNat = some read)
    (hr : read bs = some (i, rest)) : decodeCommand (op :: bs) = .ok i rest := by
  simp only [decodeCommand, h, hr]

end Sys2Proof
end

