-- ==== Sys2Proof/Laws/Payload.lean ====
section
/-! SUPPORT. The payload layouts of R82: a result is within the bound, and the layouts express every choice of the
three functions that R82 allows. -/

namespace Sys2Proof.Machine

theorem payloadOf_length (l : PayloadLayout) (ops : List Byte) : (payloadOf l ops).length ≤ maxPayload :=
  List.length_take_le _ _

theorem wrPayload_default {c : Config} (h : c.wrLayout = .defaultWr) (a r v : Byte) : wrPayload c a r v = [a, r, v] := by
  rw [wrPayload, h]; rfl

theorem rdPayload_default {c : Config} (h : c.rdLayout = .defaultRd) (a : Byte) : rdPayload c a = [a, 0x01] := by
  rw [rdPayload, h]; rfl

theorem rwPayload_default {c : Config} (h : c.rwLayout = .defaultRw) (a r : Byte) : rwPayload c a r = [a, r, 0x01] := by
  rw [rwPayload, h]; rfl

/-- Every list of `n` operands. -/
def operandLists : Nat → List (List Byte)
  | 0 => [[]]
  | n + 1 => (List.range 256).flatMap fun b => (operandLists n).map (BitVec.ofNat 8 b :: ·)

theorem mem_operandLists (ops : List Byte) : ops ∈ operandLists ops.length := by
  induction ops with
  | nil => exact List.mem_singleton.2 rfl
  | cons b ops ih =>
    exact List.mem_flatMap.2 ⟨b.toNat, List.mem_range.2 b.isLt, List.mem_map.2 ⟨ops, ih, by rw [BitVec.ofNat_toNat, BitVec.setWidth_eq]⟩⟩

theorem lookup_graph (f : List Byte → List Byte) (ops : List Byte) (keys : List (List Byte)) (h : ops ∈ keys) :
    (keys.map fun k => (k, f k)).lookup ops = some (f ops) := by
  induction keys with
  | nil => cases h
  | cons k keys ih =>
    rw [List.map_cons, List.lookup_cons]
    by_cases e : ops = k
    · rw [e, beq_self_eq_true]
    · rw [beq_false_of_ne e]
      exact ih ((List.mem_cons.1 h).resolve_left e)

/-- Every function on `n` operands whose results are within the bound of R82 is that of some layout. -/
theorem exists_layout (n : Nat) (f : List Byte → List Byte) (hf : ∀ ops, (f ops).length ≤ maxPayload) :
    ∃ l : PayloadLayout, ∀ ops, ops.length = n → payloadOf l ops = f ops := by
  refine ⟨{ parts := [], table := (operandLists n).map fun k => (k, f k) }, ?_⟩
  rintro ops rfl
  rw [payloadOf, lookup_graph f ops _ (mem_operandLists ops), Option.getD_some, List.take_of_length_le (hf ops)]

end Sys2Proof.Machine
end

