-- ==== Sys2Proof/Laws/PerInstr.lean ====
section
/-! SUPPORT. The family RoundTrip: decoding the bytes of a well-formed row on its channel gives the row, with every
operand, and leaves nothing over. One lemma per constructor of `Instr`. -/

namespace Sys2Proof.Laws.RoundTrip

/-- No operand bit is lost on the way through the byte form of the row. -/
def Statement (i : Instr) : Prop :=
  ∀ maxWords : Nat, i.wf maxWords = true → decode i.channel (encode i) = .ok i []

theorem fcBuild (page command txid : Byte) (payload : List Byte) : Statement (.fcBuild page command txid payload) := by
  intro _ _
  have := takeBytes_putBytes payload []
  refine decodeCommand_of (op := 0x01) rfl ?_
  simp_all

theorem fcParse (bytes : List Byte) (expTxid expLen : Byte) : Statement (.fcParse bytes expTxid expLen) := by
  intro _ _
  have := takeBytes_putBytes bytes [expTxid, expLen]
  refine decodeCommand_of (op := 0x02) rfl ?_
  simp_all

theorem fcXact (page command txid : Byte) (payload : List Byte) (expLen : Byte) (flush : Bool) :
    Statement (.fcXact page command txid payload expLen flush) := by
  intro _ _
  have h1 := takeBytes_putBytes payload (expLen :: putBit flush)
  have h2 := takeBit_putBit flush []
  refine decodeCommand_of (op := 0x03) rfl ?_
  simp_all

theorem i2cWrb (page addr reg value : Byte) (txid : Option Byte) : Statement (.i2cWrb page addr reg value txid) := by
  intro _ _
  have := takeOpt8_putOpt8 txid []
  refine decodeCommand_of (op := 0x10) rfl ?_
  simp_all

theorem i2cRdb (page addr : Byte) (reg txid : Option Byte) : Statement (.i2cRdb page addr reg txid) := by
  intro _ _
  have := takeOpt8_putOpt8 txid []
  refine decodeCommand_of (op := 0x11) rfl ?_
  simp_all

theorem i2cWrs (page addr reg : Byte) (bytes : List Byte) : Statement (.i2cWrs page addr reg bytes) := by
  intro _ _
  have := takeBytes_putBytes bytes []
  refine decodeCommand_of (op := 0x12) rfl ?_
  simp_all

theorem i2cRds (page addr : Byte) (reg : Option Byte) (count : Half) : Statement (.i2cRds page addr reg count) := by
  intro _ _
  have := take16_put16 count []
  refine decodeCommand_of (op := 0x13) rfl ?_
  simp_all

theorem psuBuild (opcode : Byte) (fields : List Byte) : Statement (.psuBuild opcode fields) := by
  intro _ _
  have := takeBytes_putBytes fields []
  refine decodeCommand_of (op := 0x20) rfl ?_
  simp_all

theorem psuSend (psuAddr psuReg : Byte) (packet : List Byte) : Statement (.psuSend psuAddr psuReg packet) := by
  intro _ _
  have := takeBytes_putBytes packet []
  refine decodeCommand_of (op := 0x21) rfl ?_
  simp_all

theorem psuRecv (psuAddr : Byte) (count : Option Half) : Statement (.psuRecv psuAddr count) := by
  intro _ _
  have := takeOpt16_putOpt16 count []
  refine decodeCommand_of (op := 0x22) rfl ?_
  simp_all

theorem psuCmd (opcode : Byte) (fields : List Byte) (count : Option Half) :
    Statement (.psuCmd opcode fields count) := by
  intro _ _
  have h1 := takeBytes_putBytes fields (putOpt16 count)
  have h2 := takeOpt16_putOpt16 count []
  refine decodeCommand_of (op := 0x23) rfl ?_
  simp_all

theorem psuGetHwver : Statement .psuGetHwver := fun _ _ => rfl

theorem psuCfgWdt (enableFlag : Byte) : Statement (.psuCfgWdt enableFlag) := fun _ _ => rfl

theorem psuSetV (hexVoltage : Byte) : Statement (.psuSetV hexVoltage) := fun _ _ => rfl

theorem psuGetV : Statement .psuGetV := fun _ _ => rfl

theorem psuMeasV : Statement .psuMeasV := fun _ _ => rfl

theorem voltEnc (mv : Half) : Statement (.voltEnc mv) := by
  intro _ _
  have := take16_put16 mv []
  show decodeCommand (0x29 :: put16 mv) = _
  refine decodeCommand_of rfl ?_
  simp_all

theorem voltDec (h : Byte) : Statement (.voltDec h) := fun _ _ => rfl

theorem awEnc (words : List Half) : Statement (.awEnc words) := by
  intro _ _
  have := takeWords_putWords words []
  refine decodeCommand_of (op := 0x30) rfl ?_
  simp_all

theorem awDec (bytes : List Byte) (expCount : Option Half) : Statement (.awDec bytes expCount) := by
  intro _ _
  have h1 := takeBytes_putBytes bytes (putOpt16 expCount)
  have h2 := takeOpt16_putOpt16 expCount []
  refine decodeCommand_of (op := 0x31) rfl ?_
  simp_all

/-- A frame whose length byte counts its payload decodes to the row of its command byte. -/
theorem decode_frameBytes (length txid page command : Byte) (payload : List Byte)
    (h : frameLengthIs length payload = true) :
    decode .outbound (frameBytes length txid page command payload) =
      .ok (frameRow length txid page command payload) [] := by
  simp only [frameLengthIs, Bool.and_eq_true, decide_eq_true_eq] at h
  have ht := takeExact_append payload []
  simp [decode, decodeOutbound, frameBytes, decodeFrameTail, h.1] at ht ⊢
  rw [ht]

theorem frame (length txid page command : Byte) (payload : List Byte) :
    Statement (.frame length txid page command payload) := by
  intro _ h
  simp only [Instr.wf, plainCommand, Bool.and_eq_true, Bool.not_eq_true', Bool.or_eq_false_iff,
    beq_eq_false_iff_ne] at h
  refine (decode_frameBytes length txid page command payload h.1).trans ?_
  rw [frameRow, if_neg h.2.1.1, if_neg h.2.1.2, if_neg h.2.2]

theorem frameI2cWrite (length txid page : Byte) (payload : List Byte) :
    Statement (.frameI2cWrite length txid page payload) :=
  fun _ h => decode_frameBytes length txid page 0x20 payload h

theorem frameI2cRead (length txid page : Byte) (payload : List Byte) :
    Statement (.frameI2cRead length txid page payload) :=
  fun _ h => decode_frameBytes length txid page 0x30 payload h

theorem frameI2cReadwrite (length txid page : Byte) (payload : List Byte) :
    Statement (.frameI2cReadwrite length txid page payload) :=
  fun _ h => decode_frameBytes length txid page 0x40 payload h

theorem response (byte0 byte1 txid : Byte) (payload : List Byte) : Statement (.response byte0 byte1 txid payload) :=
  fun _ _ => rfl

theorem psuPacket (length opcode : Byte) (fields : List Byte) (lo hi : Byte) :
    Statement (.psuPacket length opcode fields lo hi) := by
  intro _ h
  simp only [Instr.wf, Bool.and_eq_true, decide_eq_true_eq] at h
  have ht := takeExact_append fields [lo, hi]
  have hrow : packetRow length opcode fields lo hi = .psuPacket length opcode fields lo hi := by
    have hp := h.2
    unfold packetRow
    split_ifs with h1 h2 h3 h4 h5
    · obtain ⟨rfl, rfl, rfl, rfl⟩ := h1; simp [plainPacket] at hp
    · obtain ⟨rfl, rfl, rfl, rfl⟩ := h2; simp [plainPacket] at hp
    · obtain ⟨rfl, rfl, rfl, rfl⟩ := h3; simp [plainPacket] at hp
    · obtain ⟨rfl, rfl, h4⟩ := h4; simp_all [plainPacket]
    · obtain ⟨rfl, rfl, h5⟩ := h5; simp_all [plainPacket]
    · rfl
  have hlen : length.toNat - 4 = fields.length := by omega
  show decodeOutbound (0x55 :: 0xAA :: length :: opcode :: (fields ++ [lo, hi])) = _
  simp [decodeOutbound, decodePacketTail, hlen, ht, hrow]

theorem psuPktGetHwver : Statement .psuPktGetHwver := fun _ _ => by decide

theorem psuPktCfgWdt (enableFlag lo hi : Byte) : Statement (.psuPktCfgWdt enableFlag lo hi) := fun _ _ => rfl

theorem psuPktSetV (hexVoltage lo hi : Byte) : Statement (.psuPktSetV hexVoltage lo hi) := fun _ _ => rfl

theorem psuPktGetV : Statement .psuPktGetV := fun _ _ => by decide

theorem psuPktMeasV : Statement .psuPktMeasV := fun _ _ => by decide

theorem asicPair (byte0 : Byte) (bit8 : Bool) : Statement (.asicPair byte0 bit8) := by
  intro _ _
  cases bit8 <;> rfl

end Sys2Proof.Laws.RoundTrip
end

