-- ==== Sys2Proof/Laws/Step.lean ====
section
/-! SUPPORT. What a step can do, said once (`step_cases`): reset, an idle step, the acceptance of a command or of an
unlisted `op`, a step of a stuck block, a delivery, a call. A claim about `step` is a case analysis over it. -/

namespace Sys2Proof.Machine

/-! ## Commands are commands -/

/-- A latch holds a host command, never a wire row. -/
theorem instr_channel {l : Latch} {i : Instr} (h : l.instr = some i) : i.channel = .cmd := by
  unfold Latch.instr at h
  split at h <;> cases h <;> rfl

/-- The commands that make calls are host commands. -/
theorem calls_channel (i : Instr) (h : i.calls = true) : i.channel = .cmd := by
  cases i <;> first | rfl | exact Bool.noConfusion h

/-- Whatever an operand reader answers is a host command. -/
def ReadsCommands (o : Option (Instr × List Byte)) : Prop := ∀ i rest, o = some (i, rest) → i.channel = .cmd

theorem readsCommands_some (i : Instr) (rest : List Byte) (h : i.channel = .cmd) :
    ReadsCommands (some (i, rest)) := by
  intro j r e
  cases e
  exact h

theorem readsCommands_bind {α : Type} (o : Option α) (f : α → Option (Instr × List Byte))
    (h : ∀ a, ReadsCommands (f a)) : ReadsCommands (o.bind f) := by
  intro i rest hr
  cases o with
  | none => cases hr
  | some a => exact h a i rest hr

theorem operandReader_channel (op : Nat) (f : List Byte → Option (Instr × List Byte))
    (h : operandReader op = some f) (bs : List Byte) : ReadsCommands (f bs) := by
  unfold operandReader at h
  split at h <;> cases h
  all_goals
    repeat' first
      | exact readsCommands_some _ _ rfl
      | refine readsCommands_bind _ _ fun ⟨_, _⟩ => ?_

/-- A record on the CMD port decodes to a host command. -/
theorem decode_cmd_channel {bs rest : List Byte} {i : Instr} (h : decode .cmd bs = .ok i rest) :
    i.channel = .cmd := by
  change decodeCommand bs = _ at h
  unfold decodeCommand at h
  split at h
  · cases h
  · split at h
    · cases h
    · next f hf =>
      split at h
      · next j r hr =>
        cases h
        exact operandReader_channel _ f hf _ _ _ hr
      · cases h

/-! ## What is fetched -/

theorem tick_busy (s : State) : s.tick.busy = s.busy := by
  unfold State.tick
  split <;> rfl

/-- `tick` changes the host's coming inputs and nothing else. -/
theorem tick_eq (s : State) : ∃ host, s.tick = { s with world := { s.world with host := host } } := by
  unfold State.tick
  split
  · exact ⟨_, rfl⟩
  · exact ⟨_, rfl⟩
  · exact ⟨s.world.host, rfl⟩

theorem fetch_busy {s : State} (hr : s.noReset) (hb : s.busy = true) :
    fetch s = match s.latch.instr with | some i => .run i | none => .illegalRunning := by
  unfold fetch
  cases hh : s.world.host with
  | nil => cases hi : s.latch.instr <;> simp [hb]
  | cons x later =>
    cases x with
    | reset => simp [State.noReset, hh] at hr
    | cmd bytes => cases hi : s.latch.instr <;> simp [hb]
    | wait => cases hi : s.latch.instr <;> simp [hb]

theorem fetch_cmd {s : State} {bytes : List Byte} {later : List HostInput} (hb : s.busy = false)
    (hc : s.world.host = .cmd bytes :: later) : fetch s = fetchRecord s.cfg bytes := by
  simp [fetch, hc, hb]

theorem step_reset {s : State} {later : List HostInput} (h : s.world.host = .reset :: later) :
    step s = .next s.applyReset := by
  simp [step, fetch, h]

theorem step_idle {s : State} (hr : s.noReset) (hb : s.busy = false)
    (hc : ∀ bytes later, s.world.host ≠ .cmd bytes :: later) : step s = .next s.tick := by
  have : fetch s = .idle := by
    unfold fetch
    cases hh : s.world.host with
    | nil => simp [hb]
    | cons x later =>
      cases x with
      | reset => simp [State.noReset, hh] at hr
      | cmd bytes => exact absurd hh (hc _ _)
      | wait => simp [hb]
  simp [step, this]

/-! ## A step -/

/-- A step that takes the record on the port: a command of R96, or an unlisted `op`. -/
theorem step_cmd_cases {s t : State} {bytes : List Byte} {later : List HostInput} (hb : s.busy = false)
    (hc : s.world.host = .cmd bytes :: later) (h : step s = .next t) :
    (∃ i rest, decode .cmd bytes = .ok i rest ∧ i.channel = .cmd ∧ i.wf s.cfg.maxWords = true ∧
      t = startOf i (s.tick.accept (latchOf i))) ∨
    (∃ op, decode .cmd bytes = .error (.illegalOp op) ∧ t = s.tick.acceptIllegal op) := by
  have htb := tick_busy s
  have hf := fetch_cmd hb hc
  unfold fetchRecord at hf
  unfold step at h
  cases hd : decode .cmd bytes with
  | ok i rest =>
    simp only [hd] at hf
    have hch := decode_cmd_channel hd
    by_cases hw : i.wf s.cfg.maxWords = true
    · rw [if_pos hw] at hf
      rw [hf] at h
      rcases exec_command_cases _ i hch h with ⟨_, e⟩ | ⟨h1, _⟩ | ⟨h1, _⟩ | ⟨r, h1, _⟩ | ⟨h1, _⟩
      · exact .inl ⟨i, rest, rfl, hch, hw, e⟩
      · rw [htb, hb] at h1; cases h1
      · rw [htb, hb] at h1; cases h1
      · rw [htb, hb] at h1; cases h1
      · have := h1.1
        rw [htb, hb] at this; cases this
    · rw [if_neg hw] at hf
      rw [hf] at h; cases h
  | error e =>
    simp only [hd] at hf
    cases e with
    | illegalOp op =>
      simp only at hf
      rw [hf] at h; cases h
      exact .inr ⟨op, rfl, rfl⟩
    | _ =>
      simp only at hf
      rw [hf] at h; cases h

/-- A step while `BUSY = 1`: stuck, a delivery, or the next call of the command in the latch. -/
theorem step_busy_cases {s t : State} (hr : s.noReset) (hb : s.busy = true) (h : step s = .next t) :
    (s.hung = true ∧ t = s.tick) ∨
    (∃ r, s.hung = false ∧ s.done = some r ∧ t = s.tick.deliver r) ∨
    (∃ i, s.hung = false ∧ s.done = none ∧ s.latch.instr = some i ∧ i.calls = true ∧
      s.tick.transport (afterOf (some i)) (settledOf i) = .next t) := by
  have htb := tick_busy s
  obtain ⟨host, ht⟩ := tick_eq s
  have hf := fetch_busy hr hb
  have hl : s.tick.latch = s.latch := by rw [ht]
  have hdn : s.tick.done = s.done := by rw [ht]
  have hhg : s.tick.hung = s.hung := by rw [ht]
  unfold step at h
  cases hi : s.latch.instr with
  | none =>
    simp only [hi] at hf
    rw [hf] at h
    change s.tick.resume State.noCall = _ at h
    cases hh : s.hung with
    | true =>
      rw [State.resume_hung _ _ (by rw [hhg, hh])] at h; cases h
      exact .inl ⟨rfl, rfl⟩
    | false =>
      cases hd : s.done with
      | some r =>
        rw [State.resume_deliver _ _ r (by rw [hhg, hh]) (by rw [hdn, hd])] at h; cases h
        exact .inr (.inl ⟨r, rfl, rfl, rfl⟩)
      | none =>
        rw [State.resume_next _ _ (by rw [hhg, hh]) (by rw [hdn, hd])] at h; cases h
  | some i =>
    simp only [hi] at hf
    rw [hf] at h
    rcases exec_command_cases _ i (instr_channel hi) h with
      ⟨h1, _⟩ | ⟨_, h2, _⟩ | ⟨_, _, h3, e⟩ | ⟨r, _, _, h3, h4, e⟩ | ⟨h1, h2, e⟩
    · rw [htb, hb] at h1; cases h1
    · exact absurd (by rw [hl, hi]) h2
    · exact .inl ⟨by rw [← hhg]; exact h3, e⟩
    · exact .inr (.inl ⟨r, by rw [← hhg]; exact h3, by rw [← hdn]; exact h4, e⟩)
    · exact .inr (.inr ⟨i, by rw [← hhg]; exact h1.2.2.1, by rw [← hdn]; exact h1.2.2.2, rfl, h2, e⟩)

/-- Everything a step that answers a next state can do. -/
theorem step_cases {s t : State} (h : step s = .next t) :
    (s.world.host.head? = some .reset ∧ t = s.applyReset) ∨
    (s.noReset ∧ s.busy = false ∧ t = s.tick) ∨
    (∃ bytes later i rest, s.busy = false ∧ s.world.host = .cmd bytes :: later ∧
      decode .cmd bytes = .ok i rest ∧ i.channel = .cmd ∧ i.wf s.cfg.maxWords = true ∧
      t = startOf i (s.tick.accept (latchOf i))) ∨
    (∃ bytes later op, s.busy = false ∧ s.world.host = .cmd bytes :: later ∧
      decode .cmd bytes = .error (.illegalOp op) ∧ t = s.tick.acceptIllegal op) ∨
    (s.noReset ∧ s.busy = true ∧ s.hung = true ∧ t = s.tick) ∨
    (∃ r, s.noReset ∧ s.busy = true ∧ s.hung = false ∧ s.done = some r ∧ t = s.tick.deliver r) ∨
    (∃ i, s.noReset ∧ s.busy = true ∧ s.hung = false ∧ s.done = none ∧ s.latch.instr = some i ∧
      i.calls = true ∧ s.tick.transport (afterOf (some i)) (settledOf i) = .next t) := by
  by_cases hr : s.world.host.head? = some .reset
  · obtain ⟨later, hl⟩ : ∃ later, s.world.host = .reset :: later := by
      cases hh : s.world.host with
      | nil => simp [hh] at hr
      | cons x l =>
        simp only [hh, List.head?_cons, Option.some.injEq] at hr
        exact ⟨l, by rw [hr]⟩
    rw [step_reset hl] at h; cases h
    exact .inl ⟨hr, rfl⟩
  · have hnr : s.noReset := hr
    refine .inr ?_
    cases hb : s.busy with
    | false =>
      by_cases hc : ∃ b l, s.world.host = .cmd b :: l
      · obtain ⟨b, l, hc⟩ := hc
        rcases step_cmd_cases hb hc h with ⟨i, rest, hd, hch, hw, e⟩ | ⟨op, hd, e⟩
        · exact .inr (.inl ⟨b, l, i, rest, rfl, hc, hd, hch, hw, e⟩)
        · exact .inr (.inr (.inl ⟨b, l, op, rfl, hc, hd, e⟩))
      · rw [step_idle hnr hb (fun b l e => hc ⟨b, l, e⟩)] at h; cases h
        exact .inl ⟨hnr, rfl, rfl⟩
    | true =>
      rcases step_busy_cases hnr hb h with ⟨hh, e⟩ | ⟨r, hh, hd, e⟩ | ⟨i, hh, hd, hi, hc, e⟩
      · exact .inr (.inr (.inr (.inl ⟨hnr, rfl, hh, e⟩)))
      · exact .inr (.inr (.inr (.inr (.inl ⟨r, hnr, rfl, hh, hd, e⟩))))
      · exact .inr (.inr (.inr (.inr (.inr ⟨i, hnr, rfl, hh, hd, hi, hc, e⟩))))

end Sys2Proof.Machine
end

