-- ==== Sys2Proof/Laws/Sequence.lean ====
section
/-! SUPPORT. What the parts of a command do, said once each: the start of a transaction, the checks of its response, the
start, the elements and the end of a sequence; and what none of them touches (`SameTop`). -/

namespace Sys2Proof.Machine

theorem toNat_ofNat9 (n : Nat) (h : n < 512) : (BitVec.ofNat 9 n).toNat = n := by
  simp [BitVec.toNat_ofNat, Nat.mod_eq_of_lt h]

theorem toNat_ofNat8 (n : Nat) (h : n < 256) : (BitVec.ofNat 8 n).toNat = n := by
  simp [BitVec.toNat_ofNat, Nat.mod_eq_of_lt h]

/-! ## Acceptance and the steps of calls -/

/-- An accepted command is in the state its start leaves it in. -/
theorem exec_accept (i : Instr) (hi : i.channel = .cmd) (s : State) (h : s.busy = false) :
    exec i s = .next (startOf i (s.accepted i)) := by
  rw [exec_command i hi, State.runCommand_accept _ _ _ _ h]
  rfl

/-- The step of the read: the checks of the response and what the command does with their result. -/
theorem exec_recv (i : Instr) (s : State) (a : List Byte) (hc : i.calls = true) (h : s.runs i)
    (hb : s.inBounds = true) (hp : s.u1.phase = .recv) (hr : s.reply = .returns a) :
    exec i s = .next
      (afterOf (some i) (parseResponse (s.readable a) s.u1.expTxid s.u1.expLen.toNat) (s.afterRead a)) := by
  rw [exec_runs i (calls_channel i hc) s h, nextOf_calls hc, State.transport_recv _ _ _ hb hp,
    State.call_returns _ _ a hr]
  rfl

/-- The step of the settle delay. -/
theorem exec_settle (i : Instr) (s : State) (a : List Byte) (hc : i.calls = true) (h : s.runs i)
    (hb : s.inBounds = true) (hp : s.u1.phase = .idle) (hq : s.u3.phase = .settle) (hr : s.reply = .returns a) :
    exec i s = .next (settledOf i (s.afterCall (.delay s.cfg.settleDelay) (s.world.rxIn ++ a))) := by
  rw [exec_runs i (calls_channel i hc) s h, nextOf_calls hc, State.transport_settle _ _ _ hb hp hq,
    State.call_returns _ _ a hr]
  rfl

/-! ## Operands read off the latch -/

theorem regGiven_latch (o : Option Byte) (l : Latch) (h1 : l.reg = optByte o) (h2 : l.regV = o.isSome) :
    l.regGiven = o := by
  cases o <;> simp [Latch.regGiven, h1, h2, optByte]

theorem replyCount_latch (o : Option Half) (l : Latch) (h1 : l.count = optHalf o) (h2 : l.countV = o.isSome) :
    l.replyCount = (o.map (·.toNat)).getD 8 := by
  cases o <;> simp [Latch.replyCount, h1, h2, optHalf, defaultReplyCount]

theorem replyCount_given (l : Latch) : l.replyCount = (l.countGiven.map (·.toNat)).getD 8 := by
  unfold Latch.replyCount Latch.countGiven
  split <;> simp [defaultReplyCount]

/-! ## A transaction -/

theorem startXact_awaiting (page cmd txid : Byte) (payload : List Byte) (n : Nat) (flush : Bool) (s : State) :
    s.startXact page cmd txid payload n flush = s.awaiting flush (buildFrame page cmd txid payload) txid n := by
  simp [State.startXact, State.awaiting, buildFrame]

theorem startWrite_awaiting (page addr reg value txid : Byte) (s : State) :
    s.startWrite page addr reg value txid =
      s.awaiting s.cfg.flushBeforeWrite (buildFrame page 0x20 txid (wrPayload s.cfg addr reg value)) txid 1 := by
  rw [State.startWrite, startXact_awaiting]
  rfl

theorem startRead_awaiting (page addr : Byte) (reg : Option Byte) (s : State) :
    s.startRead page addr reg 0xAB = s.awaiting true (readFrame s.cfg page addr reg) 0xAB 1 := by
  cases reg <;> (rw [State.startRead, startXact_awaiting]; rfl)

theorem parseResponse_eq (r : List Byte) (id : Byte) (n : Nat) : parseResponse r id n =
    if r.length = 0 then .fail .noData else if r.length < n + 3 then .fail .shortRead
    else if r.getD 2 0 ≠ id then .fail .idMismatch else .ok (r.drop 3) := rfl

/-- The checks as a result record and as the result of a transaction are the same checks. -/
theorem parseResponse_check (r : List Byte) (id : Byte) (n : Nat) (d : List Byte → Data) :
    parseResponse r id n = if (responseCheck r id n d).status = .ok then .ok (r.drop 3)
      else .fail (responseCheck r id n d).status := by
  rw [parseResponse_eq]
  by_cases h0 : r = []
  · simp [responseCheck, h0]
  · rw [if_neg (by simpa using h0), responseCheck, if_neg h0]
    by_cases h4 : r.length < n + 3
    · simp only [if_pos h4]; rfl
    · simp only [if_neg h4]
      by_cases h5 : r.getD 2 0 ≠ id
      · simp only [if_pos h5]; rfl
      · simp only [if_neg h5]; rfl

theorem parseResponse_ok {r : List Byte} {id : Byte} {n : Nat} {d : List Byte → Data}
    (h : (responseCheck r id n d).status = .ok) : parseResponse r id n = .ok (r.drop 3) := by
  rw [parseResponse_check r id n d, if_pos h]

theorem parseResponse_fail {r : List Byte} {id : Byte} {n : Nat} {d : List Byte → Data}
    (h : (responseCheck r id n d).status ≠ .ok) :
    parseResponse r id n = .fail (responseCheck r id n d).status := by
  rw [parseResponse_check r id n d, if_neg h]

theorem finishWith_check (d : List Byte → Data) (r : List Byte) (id : Byte) (n : Nat) (s : State) :
    s.finishWith d (parseResponse r id n) = s.withResult (responseCheck r id n d) := by
  simp only [parseResponse_eq, responseCheck]
  by_cases h3 : r = []
  · simp only [h3, List.length_nil, if_true]; rfl
  · rw [if_neg (by simpa using h3), if_neg h3]
    by_cases h4 : r.length < n + 3
    · simp only [if_pos h4]; rfl
    · simp only [if_neg h4]
      by_cases h5 : r.getD 2 0 ≠ id
      · simp only [if_pos h5]; rfl
      · simp only [if_neg h5]; rfl

/-! ## The start of a sequence -/

theorem startWriteSeq_nil (page addr reg : Byte) (onEnd : State → State) (s : State) :
    s.startWriteSeq page addr reg [] onEnd =
      onEnd { s with u2 := { s.u2 with phase := .idle, idx := 0, cnt := 0 } } := rfl

theorem startWriteSeq_cons (page addr reg : Byte) (onEnd : State → State) (v : Byte) (l : List Byte) (s : State)
    (hm : s.u2.buf.wf = true) (hl : (v :: l).length ≤ 257) :
    s.startWriteSeq page addr reg (v :: l) onEnd =
      State.awaiting s.cfg.flushBeforeWrite (writeFrame s.cfg page addr reg v) 0xBC 1
        { s with u2 := { phase := .wr, idx := 0, cnt := BitVec.ofNat 9 (v :: l).length
                         buf := s.u2.buf.writeList 0 (v :: l) } } := by
  have hread : (s.u2.buf.writeList 0 (v :: l)).read 0 = v := by
    have := Memory.read_writeList s.u2.buf hm 0 0 (v :: l) (by simp)
    simpa using this
  rw [State.startWriteSeq, State.writeLoop, if_pos, startWrite_awaiting]
  · have : (s.loadWriteSeq (v :: l)).u2.buf.read (s.loadWriteSeq (v :: l)).u2.idx.toNat = v := hread
    rw [this]
    rfl
  · change 0 < (BitVec.ofNat 9 (v :: l).length).toNat
    rw [toNat_ofNat9 _ (by omega)]
    simp

theorem startReadSeq_zero (page addr : Byte) (reg : Option Byte) (onEnd : List Byte → State → State) (s : State) :
    s.startReadSeq page addr reg 0 onEnd =
      onEnd [] { s with u2 := { s.u2 with phase := .idle, idx := 0, cnt := 0 } } := rfl

theorem startReadSeq_pos (page addr : Byte) (reg : Option Byte) (onEnd : List Byte → State → State) (c : Nat)
    (s : State) (h0 : 0 < c) (hc : c ≤ 255) :
    s.startReadSeq page addr reg c onEnd =
      State.awaiting true (readFrame s.cfg page addr reg) 0xAB 1
        { s with u2 := { s.u2 with phase := .rd, idx := 0, cnt := BitVec.ofNat 9 c } } := by
  rw [State.startReadSeq, State.readLoop, if_pos]
  · exact startRead_awaiting page addr reg _
  · change 0 < (BitVec.ofNat 9 c).toNat
    rw [toNat_ofNat9 _ (by omega)]
    exact h0

/-! ## An element of a sequence -/

theorem inBounds_wr {s : State} (hb : s.inBounds = true) (hp : s.u2.phase = .wr) :
    s.u2.idx.toNat < s.u2.cnt.toNat ∧ s.u2.cnt.toNat ≤ 257 := by
  simp only [State.inBounds, hp, Bool.and_eq_true, decide_eq_true_eq] at hb
  exact hb.2

theorem inBounds_rd {s : State} (hb : s.inBounds = true) (hp : s.u2.phase = .rd) :
    s.u2.idx.toNat < s.u2.cnt.toNat ∧ s.u2.cnt.toNat ≤ 255 := by
  simp only [State.inBounds, hp, Bool.and_eq_true, decide_eq_true_eq] at hb
  exact hb.2

/-- The index does not wrap while it is below the count (R21). -/
theorem idx_succ {x c : BitVec 9} (h : x.toNat < c.toNat) (hc : c.toNat ≤ 257) : (x + 1).toNat = x.toNat + 1 := by
  rw [BitVec.toNat_add]
  simp
  omega

theorem afterWriteElem_more (page addr reg : Byte) (onEnd : State → State) (onFail : Status → State → State)
    (p : List Byte) (t : State) (hi : t.u2.idx.toNat + 1 < t.u2.cnt.toNat) (hc : t.u2.cnt.toNat ≤ 257) :
    t.afterWriteElem page addr reg onEnd onFail (.ok p) =
      State.awaiting t.cfg.flushBeforeWrite
        (writeFrame t.cfg page addr reg (t.u2.buf.read (t.u2.idx.toNat + 1))) 0xBC 1
        { t with u2 := { t.u2 with idx := t.u2.idx + 1 } } := by
  have e : t.sqNext.u2.idx.toNat = t.u2.idx.toNat + 1 := idx_succ (c := t.u2.cnt) (by omega) hc
  change t.sqNext.writeLoop page addr reg onEnd = _
  rw [State.writeLoop, if_pos (by rw [e]; exact hi), startWrite_awaiting, e]
  rfl

theorem afterWriteElem_last (page addr reg : Byte) (onEnd : State → State) (onFail : Status → State → State)
    (p : List Byte) (t : State) (hi : t.u2.idx.toNat + 1 = t.u2.cnt.toNat) (hc : t.u2.cnt.toNat ≤ 257) :
    t.afterWriteElem page addr reg onEnd onFail (.ok p) =
      onEnd { t with u2 := { t.u2 with phase := .idle, idx := t.u2.idx + 1 } } := by
  have e : t.sqNext.u2.idx.toNat = t.u2.idx.toNat + 1 := idx_succ (c := t.u2.cnt) (by omega) hc
  change t.sqNext.writeLoop page addr reg onEnd = _
  rw [State.writeLoop, if_neg (by rw [e]; exact Nat.not_lt.mpr (Nat.le_of_eq hi.symm))]
  rfl

theorem afterWriteElem_fail (page addr reg : Byte) (onEnd : State → State) (onFail : Status → State → State)
    (e : Status) (t : State) :
    t.afterWriteElem page addr reg onEnd onFail (.fail e) = onFail e { t with u2 := { t.u2 with phase := .idle } } :=
  rfl

theorem afterReadElem_more (page addr : Byte) (reg : Option Byte) (onEnd : List Byte → State → State)
    (onFail : Status → State → State) (p : List Byte) (t : State) (hi : t.u2.idx.toNat + 1 < t.u2.cnt.toNat)
    (hc : t.u2.cnt.toNat ≤ 255) :
    t.afterReadElem page addr reg onEnd onFail (.ok p) =
      State.awaiting true (readFrame t.cfg page addr reg) 0xAB 1
        { t with u2 := { t.u2 with idx := t.u2.idx + 1, buf := t.u2.buf.write t.u2.idx.toNat (p.getD 0 0) } } := by
  have e : (t.sqStore (p.getD 0 0)).sqNext.u2.idx.toNat = t.u2.idx.toNat + 1 :=
    idx_succ (x := t.u2.idx) (c := t.u2.cnt) (by omega) (by omega)
  change (t.sqStore (p.getD 0 0)).sqNext.readLoop page addr reg onEnd = _
  rw [State.readLoop, if_pos (by rw [e]; exact hi)]
  exact startRead_awaiting ..

theorem afterReadElem_last (page addr : Byte) (reg : Option Byte) (onEnd : List Byte → State → State)
    (onFail : Status → State → State) (p : List Byte) (t : State) (hi : t.u2.idx.toNat + 1 = t.u2.cnt.toNat)
    (hc : t.u2.cnt.toNat ≤ 255) :
    t.afterReadElem page addr reg onEnd onFail (.ok p) =
      onEnd ((t.u2.buf.write t.u2.idx.toNat (p.getD 0 0)).readList 0 t.u2.cnt.toNat)
        { t with u2 := { t.u2 with phase := .idle, idx := t.u2.idx + 1
                                   buf := t.u2.buf.write t.u2.idx.toNat (p.getD 0 0) } } := by
  have e : (t.sqStore (p.getD 0 0)).sqNext.u2.idx.toNat = t.u2.idx.toNat + 1 :=
    idx_succ (x := t.u2.idx) (c := t.u2.cnt) (by omega) (by omega)
  change (t.sqStore (p.getD 0 0)).sqNext.readLoop page addr reg onEnd = _
  rw [State.readLoop, if_neg (by rw [e]; exact Nat.not_lt.mpr (Nat.le_of_eq hi.symm))]
  rfl

theorem afterReadElem_fail (page addr : Byte) (reg : Option Byte) (onEnd : List Byte → State → State)
    (onFail : Status → State → State) (e : Status) (t : State) :
    t.afterReadElem page addr reg onEnd onFail (.fail e) = onFail e { t with u2 := { t.u2 with phase := .idle } } :=
  rfl

/-! ## What the parts of a command leave alone -/

/-- Configuration, flags, latch and everything outside the block are the same. -/
structure SameTop (s t : State) : Prop where
  cfg : t.cfg = s.cfg
  busy : t.busy = s.busy
  status : t.status = s.status
  latch : t.latch = s.latch
  hung : t.hung = s.hung
  world : t.world = s.world

theorem SameTop.refl (s : State) : SameTop s s := ⟨rfl, rfl, rfl, rfl, rfl, rfl⟩

theorem SameTop.trans {s t u : State} (h : SameTop s t) (k : SameTop t u) : SameTop s u :=
  ⟨k.1.trans h.1, k.2.trans h.2, k.3.trans h.3, k.4.trans h.4, k.5.trans h.5, k.6.trans h.6⟩

theorem sameTop_finish (r : Rsp) (s : State) : SameTop s (s.finish r) := ⟨rfl, rfl, rfl, rfl, rfl, rfl⟩

theorem sameTop_fail (e : Status) (s : State) : SameTop s (s.fail e) := sameTop_finish _ s

theorem sameTop_succeed (d : Data) (s : State) : SameTop s (s.succeed d) := sameTop_finish _ s

theorem sameTop_finishWith (d : List Byte → Data) (q : XactResult) (s : State) : SameTop s (s.finishWith d q) := by
  cases q <;> exact sameTop_finish _ s

theorem sameTop_startXact (page cmd txid : Byte) (payload : List Byte) (n : Nat) (flush : Bool) (s : State) :
    SameTop s (s.startXact page cmd txid payload n flush) := ⟨rfl, rfl, rfl, rfl, rfl, rfl⟩

theorem sameTop_startRead (page addr : Byte) (reg : Option Byte) (txid : Byte) (s : State) :
    SameTop s (s.startRead page addr reg txid) := by
  cases reg <;> exact sameTop_startXact ..

theorem sameTop_psPhase (p : PsPhase) (s : State) : SameTop s (s.psPhase p) := ⟨rfl, rfl, rfl, rfl, rfl, rfl⟩

theorem sameTop_sqIdle (s : State) : SameTop s s.sqIdle := ⟨rfl, rfl, rfl, rfl, rfl, rfl⟩

theorem sameTop_writeLoop (page addr reg : Byte) (onEnd : State → State) (h : ∀ t, SameTop t (onEnd t)) (s : State) :
    SameTop s (s.writeLoop page addr reg onEnd) := by
  unfold State.writeLoop
  split
  · exact sameTop_startXact ..
  · exact (sameTop_sqIdle s).trans (h _)

theorem sameTop_readLoop (page addr : Byte) (reg : Option Byte) (onEnd : List Byte → State → State)
    (h : ∀ b t, SameTop t (onEnd b t)) (s : State) : SameTop s (s.readLoop page addr reg onEnd) := by
  unfold State.readLoop
  split
  · exact sameTop_startRead ..
  · exact (sameTop_sqIdle s).trans (h _ _)

theorem sameTop_startWriteSeq (page addr reg : Byte) (b : List Byte) (onEnd : State → State)
    (h : ∀ t, SameTop t (onEnd t)) (s : State) : SameTop s (s.startWriteSeq page addr reg b onEnd) :=
  SameTop.trans (t := s.loadWriteSeq b) ⟨rfl, rfl, rfl, rfl, rfl, rfl⟩ (sameTop_writeLoop _ _ _ _ h _)

theorem sameTop_startReadSeq (page addr : Byte) (reg : Option Byte) (c : Nat) (onEnd : List Byte → State → State)
    (h : ∀ b t, SameTop t (onEnd b t)) (s : State) : SameTop s (s.startReadSeq page addr reg c onEnd) :=
  SameTop.trans (t := s.loadReadSeq c) ⟨rfl, rfl, rfl, rfl, rfl, rfl⟩ (sameTop_readLoop _ _ _ _ h _)

theorem sameTop_afterWriteElem (page addr reg : Byte) (onEnd : State → State) (onFail : Status → State → State)
    (q : XactResult) (h : ∀ t, SameTop t (onEnd t)) (k : ∀ e t, SameTop t (onFail e t)) (s : State) :
    SameTop s (s.afterWriteElem page addr reg onEnd onFail q) := by
  cases q
  · exact SameTop.trans (t := s.sqNext) ⟨rfl, rfl, rfl, rfl, rfl, rfl⟩ (sameTop_writeLoop _ _ _ _ h _)
  · exact (sameTop_sqIdle s).trans (k _ _)

theorem sameTop_afterReadElem (page addr : Byte) (reg : Option Byte) (onEnd : List Byte → State → State)
    (onFail : Status → State → State) (q : XactResult) (h : ∀ b t, SameTop t (onEnd b t))
    (k : ∀ e t, SameTop t (onFail e t)) (s : State) :
    SameTop s (s.afterReadElem page addr reg onEnd onFail q) := by
  cases q with
  | ok p =>
    exact SameTop.trans (t := (s.sqStore (p.getD 0 0)).sqNext) ⟨rfl, rfl, rfl, rfl, rfl, rfl⟩
      (sameTop_readLoop _ _ _ _ h _)
  | fail e => exact (sameTop_sqIdle s).trans (k _ _)

theorem sameTop_endReply (d : List Byte → Data) (b : List Byte) (s : State) : SameTop s (endReply d b s) :=
  ⟨rfl, rfl, rfl, rfl, rfl, rfl⟩

theorem sameTop_startExchange (opcode : Byte) (fields : List Byte) (s : State) :
    SameTop s (startExchange opcode fields s) :=
  SameTop.trans (t := (s.loadPacket opcode fields).psPhase .send) ⟨rfl, rfl, rfl, rfl, rfl, rfl⟩
    (sameTop_startWriteSeq _ _ _ _ _ (sameTop_psPhase _) _)

theorem sameTop_settledExchange (c : Nat) (d : List Byte → Data) (s : State) :
    SameTop s (settledExchange c d s) :=
  (sameTop_psPhase .recv s).trans (sameTop_startReadSeq _ _ _ _ _ (sameTop_endReply _) _)

theorem sameTop_afterExchange (d : List Byte → Data) (q : XactResult) (s : State) :
    SameTop s (afterExchange d q s) := by
  unfold afterExchange
  split
  · exact sameTop_afterReadElem _ _ _ _ _ _ (sameTop_endReply _) (fun _ t => sameTop_fail _ t) _
  · exact sameTop_afterWriteElem _ _ _ _ _ _ (sameTop_psPhase _) (fun _ t => sameTop_fail _ t) _

/-- Up to its first call a command writes only the units' registers and its own result. -/
theorem sameTop_startOf (i : Instr) (s : State) : SameTop s (startOf i s) := by
  cases i with
  | fcBuild => change SameTop s (startFcBuild s); unfold startFcBuild; split <;> exact ⟨rfl, rfl, rfl, rfl, rfl, rfl⟩
  | fcParse =>
    change SameTop s (startFcParse s)
    unfold startFcParse
    split
    · exact sameTop_fail ..
    · split
      · exact sameTop_fail ..
      · exact sameTop_finishWith ..
  | fcXact => change SameTop s (startFcXact s); unfold startFcXact; split <;> exact ⟨rfl, rfl, rfl, rfl, rfl, rfl⟩
  | i2cWrb => exact sameTop_startXact ..
  | i2cRdb => exact sameTop_startRead ..
  | i2cWrs =>
    change SameTop s (startI2cWrs s)
    unfold startI2cWrs
    split
    · exact sameTop_fail ..
    · exact sameTop_startWriteSeq _ _ _ _ _ (sameTop_succeed _) _
  | i2cRds =>
    change SameTop s (startI2cRds s)
    unfold startI2cRds
    split
    · exact sameTop_fail ..
    · exact sameTop_startReadSeq _ _ _ _ _ (fun _ => sameTop_succeed _) _
  | psuBuild =>
    change SameTop s (startPsuBuild s); unfold startPsuBuild; split <;> exact ⟨rfl, rfl, rfl, rfl, rfl, rfl⟩
  | psuSend =>
    change SameTop s (startPsuSend s)
    unfold startPsuSend
    split
    · exact sameTop_fail ..
    · exact (sameTop_psPhase _ _).trans
        (sameTop_startWriteSeq _ _ _ _ _ (fun t => (sameTop_psPhase _ t).trans (sameTop_succeed _ _)) _)
  | psuRecv =>
    change SameTop s (startPsuRecv s)
    unfold startPsuRecv
    split
    · exact sameTop_fail ..
    · exact (sameTop_psPhase _ _).trans (sameTop_startReadSeq _ _ _ _ _ (sameTop_endReply _) _)
  | psuCmd =>
    change SameTop s (startPsuCmd s)
    unfold startPsuCmd
    split
    · exact sameTop_fail ..
    · exact sameTop_startExchange ..
  | psuGetHwver => exact sameTop_startExchange 0x02 [] s
  | psuCfgWdt => exact sameTop_startExchange 0x81 [s.latch.value, 0x00] s
  | psuSetV => exact sameTop_startExchange 0x83 [s.latch.value, 0x00] s
  | psuGetV => exact sameTop_startExchange 0x03 [] s
  | psuMeasV => exact sameTop_startExchange 0x04 [] s
  | voltEnc => change SameTop s (startVoltEnc s); unfold startVoltEnc; split <;> exact sameTop_finish ..
  | voltDec => exact sameTop_succeed ..
  | awEnc => exact sameTop_succeed ..
  | awDec => change SameTop s (startAwDec s); unfold startAwDec; split <;> exact sameTop_finish ..
  | _ => exact SameTop.refl _

/-- The same after a transaction. -/
theorem sameTop_afterOf (i : Instr) (q : XactResult) (s : State) : SameTop s (afterOf (some i) q s) := by
  cases i with
  | fcXact => exact sameTop_finishWith ..
  | i2cWrb => exact sameTop_finishWith ..
  | i2cRdb => exact sameTop_finishWith ..
  | i2cWrs => exact sameTop_afterWriteElem _ _ _ _ _ _ (sameTop_succeed _) sameTop_fail _
  | i2cRds => exact sameTop_afterReadElem _ _ _ _ _ _ (fun _ => sameTop_succeed _) sameTop_fail _
  | psuSend =>
    exact sameTop_afterWriteElem _ _ _ _ _ _ (fun t => (sameTop_psPhase _ t).trans (sameTop_succeed _ _))
      (fun _ t => sameTop_fail _ t) _
  | psuRecv =>
    exact sameTop_afterReadElem _ _ _ _ _ _ (sameTop_endReply _) (fun _ t => sameTop_fail _ t) _
  | psuCmd => exact sameTop_afterExchange ..
  | psuGetHwver => exact sameTop_afterExchange ..
  | psuCfgWdt => exact sameTop_afterExchange ..
  | psuSetV => exact sameTop_afterExchange ..
  | psuGetV => exact sameTop_afterExchange ..
  | psuMeasV => exact sameTop_afterExchange ..
  | _ => exact SameTop.refl _

/-- The same after the settle delay. -/
theorem sameTop_settledOf (i : Instr) (s : State) : SameTop s (settledOf i s) := by
  cases i with
  | psuCmd => exact sameTop_settledExchange ..
  | psuGetHwver => exact sameTop_settledExchange ..
  | psuCfgWdt => exact sameTop_settledExchange ..
  | psuSetV => exact sameTop_settledExchange ..
  | psuGetV => exact sameTop_settledExchange ..
  | psuMeasV => exact sameTop_settledExchange ..
  | _ => exact SameTop.refl _

/-- What a call does to the state as a whole: one reply is used, and either the block is stuck in it or the call's own
event is the one event of the step (R46 to R50, R63, R207). -/
theorem transport_top {i : Instr} {s t : State}
    (h : s.transport (afterOf (some i)) (settledOf i) = .next t) :
    t.cfg = s.cfg ∧ t.busy = s.busy ∧ t.status = s.status ∧ t.latch = s.latch ∧ t.world.host = s.world.host ∧
    t.world.env = s.world.env.tail ∧ t.world.calls = s.world.calls + 1 ∧
    ((s.reply = .never ∧ t = s.hang) ∨
     (s.reply ≠ .never ∧ t.hung = s.hung ∧ ∃ e, e.isCall = true ∧ t.world.hist = s.world.hist ++ [e])) := by
  obtain ⟨_, ⟨hr, rfl⟩ | ⟨a, hr, h⟩⟩ := State.transport_cases _ _ _ h
  · exact ⟨rfl, rfl, rfl, rfl, rfl, rfl, rfl, .inl ⟨hr, rfl⟩⟩
  · have hne : s.reply ≠ .never := by rw [hr]; simp
    rcases h with ⟨_, rfl⟩ | ⟨_, rfl⟩ | ⟨_, rfl⟩ | ⟨_, _, rfl⟩
    · exact ⟨rfl, rfl, rfl, rfl, rfl, rfl, rfl, .inr ⟨hne, rfl, _, rfl, rfl⟩⟩
    · exact ⟨rfl, rfl, rfl, rfl, rfl, rfl, rfl, .inr ⟨hne, rfl, _, rfl, rfl⟩⟩
    · have k := sameTop_afterOf i (s.answered a).recvResult (s.answered a).recvStep
      exact ⟨k.cfg, k.busy, k.status, k.latch, by rw [k.world]; rfl, by rw [k.world]; rfl, by rw [k.world]; rfl,
        .inr ⟨hne, k.hung, _, rfl, by rw [k.world]; rfl⟩⟩
    · have k := sameTop_settledOf i (s.answered a).delayStep
      exact ⟨k.cfg, k.busy, k.status, k.latch, by rw [k.world]; rfl, by rw [k.world]; rfl, by rw [k.world]; rfl,
        .inr ⟨hne, k.hung, _, rfl, by rw [k.world]; rfl⟩⟩

end Sys2Proof.Machine
end

