-- ==== Sys2Proof/Tests/Slice0.lean ====
section
/-! SUPPORT. Tests of the model: words written out from the spec's encodings, ill-formed terms, one step per instruction with
the vectors of spec/95_test_vectors.md (named in each comment), and a witness for the hypotheses of every obligation. -/

namespace Sys2Proof.Tests

open Sys2Proof Sys2Proof.Machine

/-! ## Small states -/

/-- The configuration of 95: `PSU_ADDR = 0x10`, `PSU_REG = 0x11`. -/
def cfg0 : Config := { Config.nominal with psuAddr := 0x10, psuReg := 0x11, pageAdc := 0, maxWords := 100 }

/-- Right after reset. -/
def s0 : State := State.resetWith cfg0

/-- `s` with this script of the environment's replies. -/
def scripted (env : List EnvReply) (s : State) : State := { s with world := { s.world with env := env } }

/-- `s` with these inputs of the host. -/
def hosted (l : List HostInput) (s : State) : State := { s with world := { s.world with host := l } }

/-- The state `n` steps of `i` after `s`. -/
def after (i : Instr) (n : Nat) (s : State) : State :=
  match execRun i n s with
  | .next t => t
  | _ => s

/-- The result record the step computes, if it answers a next state. -/
def resultOf (r : Result) : Option Rsp :=
  match r with
  | .next t => t.done
  | _ => none

/-- The event the step adds, if it adds one to an empty history. -/
def eventsOf (r : Result) : List Event :=
  match r with
  | .next t => t.world.hist
  | _ => []

/-- The name the step refuses under, if it does. -/
def refusalOf (r : Result) : Option Refusal :=
  match r with
  | .refused e => some e
  | _ => none

/-- Accepted, and about to make the first call. -/
def begun (i : Instr) (env : List EnvReply) : State := scripted env (after i 1 s0)

/-- In the read of a transaction whose response is `r`. -/
def reading (i : Instr) (r : List Byte) : State :=
  let s := begun i [.returns r]
  { s with u1 := { s.u1 with phase := .recv } }

/-- A command of this record runs, and its settle delay is next. -/
def settling (i : Instr) (env : List EnvReply) : State :=
  scripted env { s0 with busy := true, latch := latchOf i, u3 := { s0.u3 with phase := .settle } }

/-! ## Decoding: words written out from the encodings of the spec -/

/-- R96: op 0x03; log 11 for the operands. -/
theorem test_decode_fcXact : decode .cmd [0x03, 0x06, 0x00, 0x01, 0x02, 0x00, 0x03, 0x01, 0x02, 0x01] =
    .ok (.fcXact 0x06 0x00 0x01 [0x03, 0x01] 0x02 true) [] := by decide
/-- R96: op 0x01. -/
theorem test_decode_fcBuild : decode .cmd [0x01, 0x09, 0x7E, 0x00, 0x00, 0x00] = .ok (.fcBuild 0x09 0x7E 0x00 []) [] := by
  decide
/-- R96: op 0x02. -/
theorem test_decode_fcParse : decode .cmd [0x02, 0x01, 0x00, 0x5A, 0xAB, 0x01] = .ok (.fcParse [0x5A] 0xAB 0x01) [] := by
  decide
/-- R96: op 0x10, txid omitted and given. -/
theorem test_decode_i2cWrb : decode .cmd [0x10, 0x05, 0x48, 0x01, 0x60, 0x00, 0x00] = .ok (.i2cWrb 0x05 0x48 0x01 0x60 none) [] ∧
    decode .cmd [0x10, 0x05, 0x48, 0x01, 0x60, 0x01, 0x11] = .ok (.i2cWrb 0x05 0x48 0x01 0x60 (some 0x11)) [] := by decide
/-- R96: op 0x11; a register given as 0 is given (R97). -/
theorem test_decode_i2cRdb : decode .cmd [0x11, 0x05, 0x48, 0x01, 0x00, 0x00, 0x00] =
    .ok (.i2cRdb 0x05 0x48 (some 0x00) none) [] := by decide
/-- R96: op 0x12. -/
theorem test_decode_i2cWrs : decode .cmd [0x12, 0x05, 0x48, 0x01, 0x03, 0x00, 0x60, 0xA0, 0x00] =
    .ok (.i2cWrs 0x05 0x48 0x01 [0x60, 0xA0, 0x00]) [] := by decide
/-- R96: op 0x13. -/
theorem test_decode_i2cRds : decode .cmd [0x13, 0x05, 0x48, 0x00, 0x00, 0x00, 0x01] = .ok (.i2cRds 0x05 0x48 none 0x100) [] := by
  decide
/-- R96: ops 0x20 to 0x23. -/
theorem test_decode_psu : decode .cmd [0x20, 0x83, 0x02, 0x00, 0xFF, 0x00] = .ok (.psuBuild 0x83 [0xFF, 0x00]) [] ∧
    decode .cmd [0x21, 0x10, 0x11, 0x01, 0x00, 0x55] = .ok (.psuSend 0x10 0x11 [0x55]) [] ∧
    decode .cmd [0x22, 0x10, 0x01, 0x08, 0x00] = .ok (.psuRecv 0x10 (some 8)) [] ∧
    decode .cmd [0x23, 0x03, 0x00, 0x00, 0x00, 0x00, 0x00] = .ok (.psuCmd 0x03 [] none) [] := by decide
/-- R96: ops 0x24 to 0x2A. -/
theorem test_decode_operations : decode .cmd [0x24] = .ok .psuGetHwver [] ∧ decode .cmd [0x25, 0x01] = .ok (.psuCfgWdt 0x01) [] ∧
    decode .cmd [0x26, 0xEE] = .ok (.psuSetV 0xEE) [] ∧ decode .cmd [0x27] = .ok .psuGetV [] ∧
    decode .cmd [0x28] = .ok .psuMeasV [] ∧ decode .cmd [0x29, 0xE0, 0x2E] = .ok (.voltEnc 12000) [] ∧
    decode .cmd [0x2A, 0x64] = .ok (.voltDec 0x64) [] := by decide
/-- R96: ops 0x30, 0x31. -/
theorem test_decode_asic : decode .cmd [0x30, 0x02, 0x00, 0xA5, 0x01, 0x03, 0x00] = .ok (.awEnc [0x1A5, 0x003]) [] ∧
    decode .cmd [0x31, 0x02, 0x00, 0xA5, 0x01, 0x01, 0x01, 0x00] = .ok (.awDec [0xA5, 0x01] (some 1)) [] := by decide
/-- Rejections by name. -/
theorem test_decode_rejects : decode .cmd [] = .error .empty ∧ decode .cmd [0x04] = .error (.illegalOp 0x04) ∧
    decode .cmd [0x2A] = .error (.malformed 0x2A) ∧ decode .outbound [0x07, 0x01, 0xBC, 0x00, 0x05, 0x20] = .error .noRow ∧
    decode .inbound [0x00, 0x00] = .error .noRow ∧ decode .asic [0xA5, 0x02] = .error .noRow := by decide
/-- R70, R80, R81: vectors B1 to B4. -/
theorem test_decode_frames :
    decode .outbound [0x07, 0x00, 0xBC, 0x00, 0x05, 0x20, 0x48, 0x01, 0x60] = .ok (.frameI2cWrite 0x07 0xBC 0x05 [0x48, 0x01, 0x60]) [] ∧
    decode .outbound [0x06, 0x00, 0xAB, 0x00, 0x05, 0x30, 0x48, 0x01] = .ok (.frameI2cRead 0x06 0xAB 0x05 [0x48, 0x01]) [] ∧
    decode .outbound [0x07, 0x00, 0xAB, 0x00, 0x05, 0x40, 0x48, 0x00, 0x01] =
      .ok (.frameI2cReadwrite 0x07 0xAB 0x05 [0x48, 0x00, 0x01]) [] ∧
    decode .outbound [0x04, 0x00, 0x00, 0x00, 0x09, 0x7E] = .ok (.frame 0x04 0x00 0x09 0x7E []) [] := by decide
/-- R85, R88: vectors K1 to K3, K6, K9, K11. -/
theorem test_decode_packets :
    decode .outbound [0x55, 0xAA, 0x04, 0x02, 0x06, 0x00] = .ok .psuPktGetHwver [] ∧
    decode .outbound [0x55, 0xAA, 0x04, 0x03, 0x07, 0x00] = .ok .psuPktGetV [] ∧
    decode .outbound [0x55, 0xAA, 0x04, 0x04, 0x08, 0x00] = .ok .psuPktMeasV [] ∧
    decode .outbound [0x55, 0xAA, 0x06, 0x81, 0xFF, 0x00, 0x86, 0x01] = .ok (.psuPktCfgWdt 0xFF 0x86 0x01) [] ∧
    decode .outbound [0x55, 0xAA, 0x06, 0x83, 0xFF, 0x00, 0x88, 0x01] = .ok (.psuPktSetV 0xFF 0x88 0x01) [] ∧
    decode .outbound [0x55, 0xAA, 0x04, 0xFC, 0x00, 0x01] = .ok (.psuPacket 0x04 0xFC [] 0x00 0x01) [] := by decide
/-- R76 and R92. -/
theorem test_decode_inbound_asic : decode .inbound [0x00, 0x00, 0xAB, 0x19] = .ok (.response 0x00 0x00 0xAB [0x19]) [] ∧
    decode .asic [0xA5, 0x01] = .ok (.asicPair 0xA5 true) [] ∧ decode .asic [0x03, 0x00] = .ok (.asicPair 0x03 false) [] := by
  decide

/-- A list longer than one half can count (log 11): 65535 for `FF FF`, and the next half. -/
theorem test_decode_count : takeCount [0xFF, 0xFF, 0x02, 0x00, 0x07] = some (65537, [0x07]) ∧
    takeCount [0xFE, 0xFF] = some (65534, []) ∧ takeCount [0xFF, 0xFF] = none ∧
    putCount 65535 = [0xFF, 0xFF, 0x00, 0x00] := by decide

/-! ## Parameters (R4, R82) -/

/-- R4: the page codes; `PSU_PAGE` is `PAGE_PSU_I2C` by default. -/
theorem test_pages : [pageI2c, pageGpio, pagePsuI2c, pageFan] = [0x05, 0x06, 0x04, 0x09] ∧
    Config.nominal.psuPage = pagePsuI2c := by decide
/-- R82: the defaults, and another layout of one function alone, which goes into the frame. -/
theorem test_layouts :
    let c := { cfg0 with wrLayout := { parts := [.operand 0, .operand 2, .operand 1] } }
    wrPayload cfg0 0x48 0x01 0x60 = [0x48, 0x01, 0x60] ∧ rdPayload cfg0 0x48 = [0x48, 0x01] ∧
    rwPayload cfg0 0x48 0x00 = [0x48, 0x00, 0x01] ∧ wrPayload c 0x48 0x01 0x60 = [0x48, 0x60, 0x01] ∧
    rdPayload c 0x48 = [0x48, 0x01] ∧ rwPayload c 0x48 0x00 = [0x48, 0x00, 0x01] ∧
    (after (.i2cWrb 5 0x48 1 0x60 none) 1 (State.resetWith c)).txFrame =
      [0x07, 0x00, 0xBC, 0x00, 0x05, 0x20, 0x48, 0x60, 0x01] := by decide
/-- R82: a layout given operand by operand. -/
theorem test_layout_table :
    let c := { cfg0 with rdLayout := { parts := [.operand 0], table := [([0x48], [0x02, 0x90])] } }
    rdPayload c 0x48 = [0x02, 0x90] ∧ rdPayload c 0x49 = [0x49] := by decide

/-! ## Well-formedness: each check refuses a term -/

theorem test_wf_refuses_length : (Instr.frame 0x05 0x00 0x09 0x7E []).wf 100 = false ∧
    (Instr.frame 0xFF 0x00 0x09 0x7E (List.replicate 251 0)).wf 100 = false := by decide +kernel
theorem test_wf_refuses_special_command : (Instr.frame 0x04 0x00 0x09 0x20 []).wf 100 = false := by decide
theorem test_wf_refuses_checksum : (Instr.psuPktSetV 0xFF 0x89 0x01).wf 100 = false ∧
    (Instr.psuPacket 0x04 0xFC [] 0x00 0x00).wf 100 = false := by decide
theorem test_wf_refuses_special_packet : (Instr.psuPacket 0x04 0x03 [] 0x07 0x00).wf 100 = false ∧
    (Instr.psuPacket 0x06 0x83 [0xFF, 0x00] 0x88 0x01).wf 100 = false := by decide
theorem test_wf_refuses_packet_length : (Instr.psuPacket 0x05 0xFC [] 0x01 0x01).wf 100 = false := by decide
theorem test_wf_refuses_response : (Instr.response 0 0 0 (List.replicate 251 0)).wf 100 = false := by decide +kernel
theorem test_wf_refuses_words : (Instr.awEnc [0, 0]).wf 1 = false ∧ (Instr.awDec [0, 0, 0] none).wf 1 = false := by decide
/-- R181, R183: a list is bounded by `MAX_WORDS` alone. -/
theorem test_wf_long_lists (w : List Half) (b : List Byte) (hw : w.length = 65536) (hb : b.length = 131072) :
    (Instr.awEnc w).wf 65536 = true ∧ (Instr.awDec b none).wf 65536 = true := by
  simp [Instr.wf, hw, hb]
theorem test_wf_accepts : (Instr.fcBuild 0 0 0 (List.replicate 251 0)).wf 0 = true ∧ (Instr.awEnc [0]).wf 1 = true ∧
    (Instr.psuPacket 0x04 0xFC [] 0x00 0x01).wf 0 = true ∧ (Instr.response 0 0 0 (List.replicate 250 0)).wf 0 = true := by decide +kernel

/-! ## One step of each instruction -/

/-- B1 and B4. -/
theorem test_fcBuild :
    resultOf (exec (.fcBuild 0x05 0x20 0xBC [0x48, 0x01, 0x60]) s0) =
      some ⟨.ok, .bytes [0x07, 0x00, 0xBC, 0x00, 0x05, 0x20, 0x48, 0x01, 0x60]⟩ ∧
    resultOf (exec (.fcBuild 0x09 0x7E 0x00 []) s0) = some ⟨.ok, .bytes [0x04, 0x00, 0x00, 0x00, 0x09, 0x7E]⟩ := by decide
/-- B6 and B7: the longest frame, and one byte more. -/
theorem test_fcBuild_bounds :
    resultOf (exec (.fcBuild 0x05 0x20 0xBC (List.replicate 250 0)) s0) =
      some ⟨.ok, .bytes ([0xFE, 0x00, 0xBC, 0x00, 0x05, 0x20] ++ List.replicate 250 0)⟩ ∧
    resultOf (exec (.fcBuild 0x05 0x20 0xBC (List.replicate 251 0)) s0) = some ⟨.invalidArgument, .none⟩ := by decide +kernel
/-- Q1 to Q5. -/
theorem test_fcParse : resultOf (exec (.fcParse [0x07, 0x00, 0xAB, 0x5A] 0xAB 1) s0) = some ⟨.ok, .bytes [0x5A]⟩ ∧
    resultOf (exec (.fcParse [] 0xAB 1) s0) = some ⟨.noData, .none⟩ ∧
    resultOf (exec (.fcParse [0x00] 0xAB 1) s0) = some ⟨.shortRead, .none⟩ ∧
    resultOf (exec (.fcParse [0x00, 0x00, 0xAC] 0xAB 1) s0) = some ⟨.shortRead, .none⟩ := by decide
/-- Q6, Q8, Q9, Q11, Q12, Q14. -/
theorem test_fcParse_bounds : resultOf (exec (.fcParse [0x00, 0x00, 0xAC, 0x5A] 0xAB 1) s0) = some ⟨.idMismatch, .none⟩ ∧
    resultOf (exec (.fcParse [0x00, 0x00, 0xAB] 0xAB 0) s0) = some ⟨.ok, .bytes []⟩ ∧
    resultOf (exec (.fcParse [] 0xAB 0) s0) = some ⟨.noData, .none⟩ ∧
    resultOf (exec (.fcParse [0x00, 0x00, 0xAB, 0x5A, 0x5B] 0xAB 1) s0) = some ⟨.invalidArgument, .none⟩ ∧
    resultOf (exec (.fcParse [0x00] 0xAB 251) s0) = some ⟨.invalidArgument, .none⟩ ∧
    resultOf (exec (.fcParse [0xAB, 0x00, 0x00, 0x5A] 0xAB 1) s0) = some ⟨.idMismatch, .none⟩ := by decide
/-- X7, X8; X1: the flush is the first call. -/
theorem test_fcXact_start : resultOf (exec (.fcXact 6 0 1 (List.replicate 251 0) 0 true) s0) = some ⟨.invalidArgument, .none⟩ ∧
    resultOf (exec (.fcXact 6 0 1 [] 251 true) s0) = some ⟨.invalidArgument, .none⟩ ∧
    (after (.fcXact 6 0 1 [3, 1] 0 true) 1 s0).u1.phase = .flush ∧
    (after (.fcXact 6 0 1 [3, 1] 0 false) 1 s0).txFrame = [0x06, 0x00, 0x01, 0x00, 0x06, 0x00, 0x03, 0x01] := by decide +kernel
/-- P6: the stale byte shifts the id; the last byte stays in the input. -/
theorem test_fcXact_stale :
    let s := reading (.fcXact 5 0x30 0xAB [0x48, 1] 1 false) [0xAB, 0x00, 0x00, 0xAB, 0x19]
    resultOf (exec (.fcXact 5 0x30 0xAB [0x48, 1] 1 false) s) = some ⟨.idMismatch, .none⟩ ∧
    (after (.fcXact 5 0x30 0xAB [0x48, 1] 1 false) 1 s).world.rxIn = [0x19] := by decide
/-- W1, W2: the frames. -/
theorem test_i2cWrb : (after (.i2cWrb 5 0x48 1 0x60 none) 1 s0).txFrame = [0x07, 0x00, 0xBC, 0x00, 0x05, 0x20, 0x48, 0x01, 0x60] ∧
    (after (.i2cWrb 5 0x48 1 0x60 (some 0x11)) 1 s0).txFrame = [0x07, 0x00, 0x11, 0x00, 0x05, 0x20, 0x48, 0x01, 0x60] := by decide
/-- W1, W3, W4, W5: the read. -/
theorem test_i2cWrb_end :
    resultOf (exec (.i2cWrb 5 0x48 1 0x60 none) (reading (.i2cWrb 5 0x48 1 0x60 none) [0, 0, 0xBC, 0])) = some ⟨.ok, .none⟩ ∧
    resultOf (exec (.i2cWrb 5 0x48 1 0x60 none) (reading (.i2cWrb 5 0x48 1 0x60 none) [0, 0, 0xBC])) =
      some ⟨.shortRead, .none⟩ ∧
    resultOf (exec (.i2cWrb 5 0x48 1 0x60 none) (reading (.i2cWrb 5 0x48 1 0x60 none) [0, 0, 0xAB, 0])) =
      some ⟨.idMismatch, .none⟩ ∧
    resultOf (exec (.i2cWrb 5 0x48 1 0x60 none) (reading (.i2cWrb 5 0x48 1 0x60 none) [0, 0, 0xBC, 0xFF])) =
      some ⟨.ok, .none⟩ := by decide
/-- D1, D2: opcode 0x30 without a register, 0x40 with one, even 0x00. -/
theorem test_i2cRdb : (after (.i2cRdb 5 0x48 none none) 1 s0).txFrame = [0x06, 0x00, 0xAB, 0x00, 0x05, 0x30, 0x48, 0x01] ∧
    (after (.i2cRdb 5 0x48 (some 0) none) 1 s0).txFrame = [0x07, 0x00, 0xAB, 0x00, 0x05, 0x40, 0x48, 0x00, 0x01] := by decide
/-- D1, D3, D4, D5: the read. -/
theorem test_i2cRdb_end :
    resultOf (exec (.i2cRdb 5 0x48 none none) (reading (.i2cRdb 5 0x48 none none) [0, 0, 0xAB, 0x19])) = some ⟨.ok, .byte 0x19⟩ ∧
    resultOf (exec (.i2cRdb 5 0x48 none none) (reading (.i2cRdb 5 0x48 none none) [])) = some ⟨.noData, .none⟩ ∧
    resultOf (exec (.i2cRdb 5 0x48 none none) (reading (.i2cRdb 5 0x48 none none) [0, 0, 0xBC, 0x19])) =
      some ⟨.idMismatch, .none⟩ ∧
    resultOf (exec (.i2cRdb 5 0x48 none none) (reading (.i2cRdb 5 0x48 none none) [0, 0, 0xAB, 0xAB])) =
      some ⟨.ok, .byte 0xAB⟩ := by decide
/-- S1, S5, S6: the bounds. -/
theorem test_i2cWrs : resultOf (exec (.i2cWrs 4 0x10 0x11 []) s0) = some ⟨.ok, .none⟩ ∧
    resultOf (exec (.i2cWrs 4 0x10 0x11 (List.replicate 258 0)) s0) = some ⟨.invalidArgument, .none⟩ ∧
    (after (.i2cWrs 4 0x10 0x11 (List.replicate 257 0)) 1 s0).u2.cnt = 257 := by decide +kernel
/-- S2, S4: after the first element the second frame is ready, or the sequence is over. -/
theorem test_i2cWrs_element :
    (after (.i2cWrs 4 0x10 0x11 [0x55, 0xAA]) 1 (reading (.i2cWrs 4 0x10 0x11 [0x55, 0xAA]) [0, 0, 0xBC, 0])).txFrame =
      [0x07, 0x00, 0xBC, 0x00, 0x04, 0x20, 0x10, 0x11, 0xAA] ∧
    resultOf (exec (.i2cWrs 4 0x10 0x11 [0x55, 0xAA]) (reading (.i2cWrs 4 0x10 0x11 [0x55, 0xAA]) [0, 0, 0, 0])) =
      some ⟨.idMismatch, .none⟩ := by decide
/-- S7, S11. -/
theorem test_i2cRds : resultOf (exec (.i2cRds 4 0x10 none 0) s0) = some ⟨.ok, .bytes []⟩ ∧
    resultOf (exec (.i2cRds 4 0x10 none 256) s0) = some ⟨.invalidArgument, .none⟩ ∧
    (after (.i2cRds 4 0x10 none 255) 1 s0).u2.cnt = 255 := by decide
/-- S8, S9: the byte of an element, and the last one. -/
theorem test_i2cRds_element :
    (after (.i2cRds 4 0x10 none 2) 1 (reading (.i2cRds 4 0x10 none 2) [0, 0, 0xAB, 0x55])).u2.buf.read 0 = 0x55 ∧
    resultOf (exec (.i2cRds 4 0x10 none 1) (reading (.i2cRds 4 0x10 none 1) [0, 0, 0xAB, 0x55])) = some ⟨.ok, .bytes [0x55]⟩ ∧
    resultOf (exec (.i2cRds 4 0x10 none 2) (reading (.i2cRds 4 0x10 none 2) [0, 0, 0xAB])) = some ⟨.shortRead, .none⟩ := by decide
/-- E1 (K9), K11, K14. -/
theorem test_psuBuild :
    resultOf (exec (.psuBuild 0x83 [0xFF, 0x00]) s0) = some ⟨.ok, .bytes [0x55, 0xAA, 0x06, 0x83, 0xFF, 0x00, 0x88, 0x01]⟩ ∧
    resultOf (exec (.psuBuild 0xFC []) s0) = some ⟨.ok, .bytes [0x55, 0xAA, 0x04, 0xFC, 0x00, 0x01]⟩ ∧
    resultOf (exec (.psuBuild 0 (List.replicate 252 0)) s0) = some ⟨.invalidArgument, .none⟩ := by decide +kernel
/-- The longest packet: 251 fields, 257 bytes; its length byte is 0xFF and its checksum 255 + 0xFF (R86, R87). -/
theorem test_psuBuild_longest : resultOf (exec (.psuBuild 0xFF (List.replicate 251 0)) s0) =
    some ⟨.ok, .bytes ([0x55, 0xAA, 0xFF, 0xFF] ++ List.replicate 251 0 ++ [0xFE, 0x01])⟩ := by decide +kernel
/-- R152: the bytes go to the PSU page; a failure is `CommandSendFailed`. -/
theorem test_psuSend : (after (.psuSend 0x10 0x11 [0x55]) 1 s0).txFrame = [0x07, 0x00, 0xBC, 0x00, 0x04, 0x20, 0x10, 0x11, 0x55] ∧
    resultOf (exec (.psuSend 0x10 0x11 (List.replicate 258 0)) s0) = some ⟨.invalidArgument, .none⟩ ∧
    resultOf (exec (.psuSend 0x10 0x11 [0x55]) (reading (.psuSend 0x10 0x11 [0x55]) [0, 0, 0xBC, 0])) = some ⟨.ok, .none⟩ ∧
    resultOf (exec (.psuSend 0x10 0x11 [0x55]) (reading (.psuSend 0x10 0x11 [0x55]) [])) =
      some ⟨.commandSendFailed, .none⟩ := by decide +kernel
/-- R153: eight bytes by default; a failure is `ReplyIncomplete`. -/
theorem test_psuRecv : (after (.psuRecv 0x10 none) 1 s0).u2.cnt = 8 ∧
    resultOf (exec (.psuRecv 0x10 (some 256)) s0) = some ⟨.invalidArgument, .none⟩ ∧
    resultOf (exec (.psuRecv 0x10 (some 0)) s0) = some ⟨.ok, .bytes []⟩ ∧
    resultOf (exec (.psuRecv 0x10 (some 1)) (reading (.psuRecv 0x10 (some 1)) [0, 0, 0xAB, 0x64])) = some ⟨.ok, .bytes [0x64]⟩ ∧
    resultOf (exec (.psuRecv 0x10 none) (reading (.psuRecv 0x10 none) [0])) = some ⟨.replyIncomplete, .none⟩ := by decide
/-- R155: the bounds, and the packet is built first. -/
theorem test_psuCmd : resultOf (exec (.psuCmd 0 (List.replicate 252 0) none) s0) = some ⟨.invalidArgument, .none⟩ ∧
    resultOf (exec (.psuCmd 0 [] (some 256)) s0) = some ⟨.invalidArgument, .none⟩ ∧
    (after (.psuCmd 0x03 [] none) 1 s0).packet = [0x55, 0xAA, 0x04, 0x03, 0x07, 0x00] := by decide +kernel
/-- R154: after the settle delay the reads begin, or an empty reply is complete. -/
theorem test_psuCmd_settled :
    (after (.psuCmd 0x03 [] none) 1 (settling (.psuCmd 0x03 [] none) [.returns []])).txFrame =
      [0x06, 0x00, 0xAB, 0x00, 0x04, 0x30, 0x10, 0x01] ∧
    resultOf (exec (.psuCmd 0x03 [] (some 0)) (settling (.psuCmd 0x03 [] (some 0)) [.returns []])) = some ⟨.ok, .bytes []⟩ ∧
    eventsOf (exec .psuGetV (settling .psuGetV [.returns []])) = [.delay 500] := by decide
/-- K1, K5, K7, K2, K3: the five packets. -/
theorem test_operations : (after .psuGetHwver 1 s0).packet = [0x55, 0xAA, 0x04, 0x02, 0x06, 0x00] ∧
    (after (.psuCfgWdt 0x00) 1 s0).packet = [0x55, 0xAA, 0x06, 0x81, 0x00, 0x00, 0x87, 0x00] ∧
    (after (.psuSetV 0xEE) 1 s0).packet = [0x55, 0xAA, 0x06, 0x83, 0xEE, 0x00, 0x77, 0x01] ∧
    (after .psuGetV 1 s0).packet = [0x55, 0xAA, 0x04, 0x03, 0x07, 0x00] ∧
    (after .psuMeasV 1 s0).packet = [0x55, 0xAA, 0x04, 0x04, 0x08, 0x00] := by decide
/-- P2 and the replies of `measRaw` in 2.7. -/
theorem test_reply_data : replyData .psuGetV [0, 0, 0, 0, 0x64, 0, 0, 0] = .num 13792 ∧
    getVData [0, 0, 0, 0, 0xFF, 0, 0, 0] = .num 11777 ∧ measVData [0, 0, 0, 0, 0x34, 0x12, 0, 0] = .num 0x1234 ∧
    measVData [0, 0, 0, 0, 0x01, 0x00, 0, 0] = .num 1 := by decide
/-- The table of 2.7 at its edges. -/
theorem test_voltEnc : [15099, 15098, 15086, 15085, 13799, 13798].map (fun mv => voltEncode (BitVec.ofNat 16 mv)) =
      [none, some 0x00, some 0x00, some 0x01, some 0x63, some 0x64] ∧
    [12000, 11784, 11783, 11771, 11770, 0, 65535].map (fun mv => voltEncode (BitVec.ofNat 16 mv)) =
      [some 0xEE, some 0xFE, some 0xFF, some 0xFF, none, none, none] ∧
    resultOf (exec (.voltEnc 12000) s0) = some ⟨.ok, .byte 0xEE⟩ ∧
    resultOf (exec (.voltEnc 11770) s0) = some ⟨.invalidArgument, .none⟩ := by decide
/-- E2 and 2.7. -/
theorem test_voltDec : resultOf (exec (.voltDec 0x64) s0) = some ⟨.ok, .num 13792⟩ ∧
    resultOf (exec (.voltDec 0x00) s0) = some ⟨.ok, .num 15092⟩ ∧ resultOf (exec (.voltDec 0xFF) s0) = some ⟨.ok, .num 11777⟩ := by
  decide
/-- E5 and 2.8. -/
theorem test_awEnc : resultOf (exec (.awEnc [0x1A5, 0x003]) s0) = some ⟨.ok, .bytes [0xA5, 0x01, 0x03, 0x00]⟩ ∧
    resultOf (exec (.awEnc [0x3FF]) s0) = some ⟨.ok, .bytes [0xFF, 0x01]⟩ ∧
    resultOf (exec (.awEnc []) s0) = some ⟨.ok, .bytes []⟩ := by decide
/-- 2.8. -/
theorem test_awDec : resultOf (exec (.awDec [0xA5, 0x01, 0x03, 0x00] (some 2)) s0) = some ⟨.ok, .words [0x1A5, 0x003]⟩ ∧
    resultOf (exec (.awDec [0xA5, 0x01, 0x03, 0x00] (some 4)) s0) = some ⟨.lengthMismatch, .none⟩ ∧
    resultOf (exec (.awDec [0xA5] none) s0) = some ⟨.lengthMismatch, .none⟩ ∧
    resultOf (exec (.awDec [0xA5, 0xFE] none) s0) = some ⟨.ok, .words [0x0A5]⟩ := by decide

/-- A wire row is no command (R100): nothing runs, so it is refused. -/
theorem test_wire_refused : ([Instr.frame 4 0 9 0x7E [], .frameI2cWrite 4 1 2 [], .response 0 0 0xAB [0x19], .asicPair 0xA5 true,
    .psuPktGetV].map fun i => refusalOf (exec i s0)) = List.replicate 5 (some .notOnWire) := by decide
/-- The frame rows send the frame that stands in `TXBUF`. -/
theorem test_frame_rows : eventsOf (exec (.frame 4 0 9 0x7E []) (s0.placeWire (.frame 4 0 9 0x7E []))) =
      [.write [0x04, 0x00, 0x00, 0x00, 0x09, 0x7E]] ∧
    eventsOf (exec (.frameI2cWrite 4 1 2 []) (s0.placeWire (.frameI2cWrite 4 1 2 []))) =
      [.write [0x04, 0x00, 0x01, 0x00, 0x02, 0x20]] ∧
    eventsOf (exec (.frameI2cRead 4 1 2 []) (s0.placeWire (.frameI2cRead 4 1 2 []))) =
      [.write [0x04, 0x00, 0x01, 0x00, 0x02, 0x30]] ∧
    eventsOf (exec (.frameI2cReadwrite 4 1 2 []) (s0.placeWire (.frameI2cReadwrite 4 1 2 []))) =
      [.write [0x04, 0x00, 0x01, 0x00, 0x02, 0x40]] := by decide
/-- B8's shape: the first byte of each packet, in a frame of its own, on page 4. -/
theorem test_packet_rows :
    [Instr.psuPacket 0x04 0xFC [] 0x00 0x01, .psuPktGetHwver, .psuPktCfgWdt 0x01 0x88 0x00, .psuPktSetV 0xEE 0x77 0x01, .psuPktGetV,
      .psuPktMeasV].map (fun i => eventsOf (exec i (s0.placeWire i))) =
    List.replicate 6 [.write [0x07, 0x00, 0xBC, 0x00, 0x04, 0x20, 0x00, 0x00, 0x55]] := by decide
/-- R76, R113: the response is read and checked. -/
theorem test_response_row :
    resultOf (exec (.response 0 0 0xAB [0x19]) (s0.placeWire (.response 0 0 0xAB [0x19]))) = some ⟨.ok, .bytes [0x19]⟩ := by decide
/-- R92: the pair is handed over. -/
theorem test_pair_row : eventsOf (exec (.asicPair 0xA5 true) (s0.placeWire (.asicPair 0xA5 true))) =
    [.rsp ⟨.ok, .bytes [0xA5, 0x01]⟩] := by decide

/-- R96, R194: an unlisted code is accepted and answered; the bytes after it do not matter. -/
theorem test_illegal_op : resultOf (step (hosted [.cmd [0x99, 0x01, 0x02]] s0)) = some ⟨.invalidArgument, .none⟩ ∧
    resultOf (step (hosted [.cmd [0x00]] s0)) = some ⟨.invalidArgument, .none⟩ := by decide
/-- R11, I19: while a command runs the port accepts nothing. -/
theorem test_held_off : (match step (hosted [.cmd [0x27]] (begun .psuMeasV [.returns []])) with
    | .next t => t.world.host == [.cmd [0x27]] && t.latch.op == 0x28
    | _ => false) = true := by decide
/-- The table's rows are read most significant byte first (R100, log 2). -/
theorem test_table_words : decodeTableWord 48 0x000000000020 = some (.frameI2cWrite 0 0 0 []) ∧
    decodeTableWord 48 0x55AA04030700 = some .psuPktGetV ∧ decodeTableWord 8 0x27 = some .psuGetV ∧
    decodeTableWord 16 0x0001 = some (.asicPair 0 true) ∧ decodeTableWord 24 0x0000AB = some (.response 0 0 0xAB []) := by decide

/-! ## Witnesses: for each obligation, a state and operands that meet its hypotheses together

Where the clauses of an obligation differ by a bound, the values on both sides of it are given. -/

/-- A VOLT_DEC whose result waits for delivery. -/
def waiting : State := after (.voltDec 0x64) 1 s0

/-- The invariant of a concrete state. -/
theorem inv_of {s : State} (h : (s.buffersOk && s.lengthsOk && s.controlOk && s.frameOk && decide (s.status.toNat ≤ 7)) = true) :
    s.Inv := by
  simp only [Bool.and_eq_true, decide_eq_true_eq] at h
  exact ⟨h.1.1.1.1, h.1.1.1.2, h.1.1.2, h.1.2, h.2⟩

theorem s0_idle : s0.idle := ⟨rfl, rfl, rfl, rfl⟩
theorem s0_inv : s0.Inv := inv_of (by decide)

/-- EncodeThenDecode: a command, and a response with nothing after it. -/
theorem test_witness_EncodeThenDecode : (Instr.psuPktSetV 0xFF 0x88 0x01).wf 0 = true ∧
    (Instr.psuPktSetV 0xFF 0x88 0x01).channel ≠ .inbound ∧ (Instr.response 0 0 0 (List.replicate 250 0)).wf 0 = true ∧
    (Instr.response 0 0 0 []).channel = .inbound := by decide +kernel
/-- WireDecodeThenEncode, one per channel: `test_decode_frames`, `test_decode_inbound_asic`, and a rest. -/
theorem test_witness_WireDecodeThenEncode :
    decode .outbound [0x04, 0x00, 0x00, 0x00, 0x09, 0x7E, 0x11] = .ok (.frame 0x04 0x00 0x09 0x7E []) [0x11] := by decide
/-- OpCodesAndIllegalOps: a code not listed, on the port of an idle block. -/
theorem test_witness_OpCodesAndIllegalOps : (0x04 : Byte) ∉ ([0x01, 0x02, 0x03, 0x10, 0x11, 0x12, 0x13, 0x20, 0x21, 0x22, 0x23,
      0x24, 0x25, 0x26, 0x27, 0x28, 0x29, 0x2A, 0x30, 0x31] : List Byte) ∧
    (hosted [.cmd [0x04]] s0).idle ∧ (hosted [.cmd [0x04]] s0).world.host = .cmd (0x04 :: []) :: [] :=
  ⟨by decide, ⟨rfl, rfl, rfl, rfl⟩, rfl⟩
/-- StepRunsTheCommand: a record on the port of an idle block, and the three things on the port of a running one. -/
theorem test_witness_StepRunsTheCommand : (hosted [.cmd [0x27]] s0).busy = false ∧ decode .cmd [0x27] = .ok .psuGetV [] ∧
    Instr.psuGetV.wf s0.cfg.maxWords = true ∧ (begun .psuGetV []).busy = true ∧
    (begun .psuGetV []).latch.instr = some .psuGetV ∧ (begun .psuGetV []).world.host = [] ∧
    (hosted [.cmd [0x28]] (begun .psuGetV [])).world.host = .cmd [0x28] :: [] ∧
    (hosted [.wait] (begun .psuGetV [])).world.host = .wait :: [] := by decide
/-- AcceptanceLatchesRecord: an idle block; a busy one, for another command; a busy one with a record presented. -/
theorem test_witness_AcceptanceLatchesRecord : s0.busy = false ∧ Instr.psuGetV.channel = .cmd ∧
    (begun .psuGetV []).busy = true ∧ (begun .psuGetV []).latch.instr ≠ some .psuMeasV ∧
    ∃ t, step (hosted [.cmd [0x28]] (begun .psuGetV [.returns []])) = .next t :=
  ⟨rfl, rfl, rfl, by decide, _, rfl⟩
/-- DeliveryIsOneStep: a result waits, `OK` with data; and one that is not `OK`. -/
theorem test_witness_DeliveryIsOneStep : waiting.busy = true ∧ waiting.latch.instr = some (.voltDec 0x64) ∧ waiting.hung = false ∧
    waiting.done = some ⟨.ok, .num 13792⟩ ∧
    (after (.voltEnc 0) 1 s0).done = some ⟨.invalidArgument, .none⟩ ∧ (after (.voltEnc 0) 1 s0).Inv :=
  ⟨rfl, rfl, rfl, by decide, by decide, inv_of (by decide)⟩
/-- OneEventPerStep, StatusWrittenNotRead, ConfigurationIsConstant: steps that answer a next state, among them acceptance,
delivery, a call and reset. -/
theorem test_witness_steps : s0.noReset ∧ (∃ t, step s0 = .next t) ∧ (∃ t, step (hosted [.cmd [0x27]] s0) = .next t) ∧
    (∃ t, step waiting = .next t) ∧ (∃ t, step (begun .psuGetV [.returns []]) = .next t) ∧
    (∃ t, step (hosted [.reset] waiting) = .next t) ∧ (∃ t, exec .psuGetV s0 = .next t) :=
  ⟨by simp [State.noReset, s0, State.resetWith], ⟨_, rfl⟩, ⟨_, rfl⟩, ⟨_, rfl⟩, ⟨_, rfl⟩, ⟨_, rfl⟩, ⟨_, rfl⟩⟩
/-- ResetAndIdle: the host resets a running command; an idle block with nothing presented. -/
theorem test_witness_ResetAndIdle : (hosted [.reset] (begun .psuGetV [])).world.host = .reset :: [] ∧ s0.busy = false ∧
    s0.world.host = [] := by decide
/-- FlushStep: PSU_GET_V before its first call. -/
theorem test_witness_FlushStep : Instr.psuGetV.calls = true ∧ (begun .psuGetV [.returns [1]]).runs .psuGetV ∧
    (begun .psuGetV [.returns [1]]).inBounds = true ∧ (begun .psuGetV [.returns [1]]).u1.phase = .flush ∧
    (begun .psuGetV [.returns [1]]).reply = .returns [1] := ⟨rfl, ⟨rfl, rfl, rfl, rfl⟩, by decide, by decide, rfl⟩
/-- WriteStep: an unflushed transaction before its first call. -/
theorem test_witness_WriteStep :
    let i := Instr.fcXact 6 0 1 [3, 1] 0 false
    let s := begun i [.returns [1]]
    i.calls = true ∧ s.runs i ∧ s.inBounds = true ∧ s.u1.phase = .send ∧ s.reply = .returns [1] :=
  ⟨rfl, ⟨rfl, by decide, rfl, rfl⟩, by decide, rfl, rfl⟩
/-- ReadStep: a read of the expected bytes, of fewer, of more; ended, and going on with the next element. -/
theorem test_witness_ReadStep : (reading (.i2cRdb 5 0x48 none none) [0, 0, 0xAB]).runs (.i2cRdb 5 0x48 none none) ∧
    (reading (.i2cRdb 5 0x48 none none) [0, 0, 0xAB]).inBounds = true ∧
    (reading (.i2cRdb 5 0x48 none none) [0, 0, 0xAB]).u1.phase = .recv ∧
    ((reading (.i2cRdb 5 0x48 none none) [0, 0, 0xAB]).readable [0, 0, 0xAB]).length < 1 + 3 ∧
    ((reading (.i2cRdb 5 0x48 none none) [0, 0, 0xAB, 7, 8]).readable [0, 0, 0xAB, 7, 8]).length = 1 + 3 ∧
    (after (.i2cRdb 5 0x48 none none) 1 (reading (.i2cRdb 5 0x48 none none) [0, 0, 0xAB])).u1.phase = .idle ∧
    (after (.i2cRds 4 0x10 none 2) 1 (reading (.i2cRds 4 0x10 none 2) [0, 0, 0xAB, 1])).u1.phase ≠ .idle :=
  ⟨⟨rfl, by decide, rfl, rfl⟩, by decide, by decide, by decide, by decide, by decide, by decide⟩
/-- DelayStep: a reply of eight bytes, and of none. -/
theorem test_witness_DelayStep : exchangeOf .psuGetV = some (0x03, [], 8) ∧ exchangeOf (.psuCmd 1 [] (some 0)) = some (1, [], 0) ∧
    (settling .psuGetV [.returns []]).runs .psuGetV ∧
    (settling (.psuCmd 1 [] (some 0)) [.returns []]).runs (.psuCmd 1 [] (some 0)) ∧
    (settling .psuGetV [.returns []]).inBounds = true ∧ (settling .psuGetV [.returns []]).u1.phase = .idle ∧
    (settling .psuGetV [.returns []]).u2.phase = .idle ∧ (settling .psuGetV [.returns []]).u3.phase = .settle ∧
    (settling .psuGetV [.returns []]).reply = .returns [] :=
  ⟨rfl, by decide, ⟨rfl, rfl, rfl, rfl⟩, ⟨rfl, by decide, rfl, rfl⟩, by decide, rfl, rfl, rfl, rfl⟩
/-- StuckCall: a call that never returns; a stuck block; and a reset on its port. -/
theorem test_witness_StuckCall : (begun .psuGetV [.never]).runs .psuGetV ∧ (begun .psuGetV [.never]).Inv ∧
    (begun .psuGetV [.never]).reply = .never ∧ (after .psuGetV 1 (begun .psuGetV [.never])).hung = true ∧
    (after .psuGetV 1 (begun .psuGetV [.never])).busy = true ∧ (begun .psuGetV [.never]).hung = false ∧
    (∃ t, step (after .psuGetV 1 (begun .psuGetV [.never])) = .next t) :=
  ⟨⟨rfl, rfl, rfl, rfl⟩, inv_of (by decide), rfl, rfl, rfl, rfl, _, rfl⟩
/-- FcBuild: 250 bytes and 251. -/
theorem test_witness_FcBuild : s0.busy = false ∧ s0.u1.txbuf.wf = true ∧ (List.replicate 250 (0 : Byte)).length ≤ 250 ∧
    250 < (List.replicate 251 (0 : Byte)).length := ⟨rfl, rfl, by decide +kernel, by decide +kernel⟩
/-- FcParse has only `BUSY = 0`; `test_fcParse_bounds` is at its bounds. -/
theorem test_witness_FcParse : s0.busy = false := rfl
/-- ResponseHeadIgnored: a parse that answers, and a read. -/
theorem test_witness_ResponseHeadIgnored : (∃ t, exec (.fcParse (0 :: 0 :: [0xAB, 0x5A]) 0xAB 1) s0 = .next t) ∧
    (reading (.i2cRdb 5 0x48 none none) (0 :: 0 :: [0xAB, 7])).runs (.i2cRdb 5 0x48 none none) ∧
    (reading (.i2cRdb 5 0x48 none none) (0 :: 0 :: [0xAB, 7])).world.rxIn = [] ∧
    (reading (.i2cRdb 5 0x48 none none) (0 :: 0 :: [0xAB, 7])).u1.phase = .recv ∧
    (∃ t, exec (.i2cRdb 5 0x48 none none) (reading (.i2cRdb 5 0x48 none none) (0 :: 0 :: [0xAB, 7])) = .next t) :=
  ⟨⟨_, rfl⟩, ⟨rfl, by decide, rfl, rfl⟩, by decide, by decide, _, rfl⟩
/-- TransactionStarts: the default of each payload function, an idle block, and FC_XACT's bounds. -/
theorem test_witness_TransactionStarts : cfg0.wrLayout = .defaultWr ∧ cfg0.rdLayout = .defaultRd ∧
    cfg0.rwLayout = .defaultRw ∧ s0.busy = false ∧ (250 : Byte).toNat ≤ 250 ∧ 250 < (251 : Byte).toNat := by decide
/-- TransactionEnds: the three commands in their read. -/
theorem test_witness_TransactionEnds : (reading (.fcXact 6 0 1 [] 0 true) [0, 0, 1]).runs (.fcXact 6 0 1 [] 0 true) ∧
    (reading (.i2cWrb 5 0x48 1 2 none) []).runs (.i2cWrb 5 0x48 1 2 none) ∧
    (reading (.i2cRdb 5 0x48 (some 0) none) [0]).runs (.i2cRdb 5 0x48 (some 0) none) ∧
    (reading (.fcXact 6 0 1 [] 0 true) [0, 0, 1]).inBounds = true ∧ (reading (.fcXact 6 0 1 [] 0 true) [0, 0, 1]).u1.phase = .recv ∧
    (reading (.fcXact 6 0 1 [] 0 true) [0, 0, 1]).reply = .returns [0, 0, 1] :=
  ⟨⟨rfl, by decide, rfl, rfl⟩, ⟨rfl, by decide, rfl, rfl⟩, ⟨rfl, by decide, rfl, rfl⟩, by decide, by decide, rfl⟩
/-- FcXactRun, flushed and not; I2cWrbRun and I2cRdbRun meet theirs with the first of the two scripts. -/
theorem test_witness_OneTransactionRuns : s0.idle ∧ s0.u1.txbuf.wf = true ∧
    (scripted [.returns [9], .returns [], .returns [0, 0, 0xAB, 7]] s0).world.env =
      (if true then [.returns [9]] else []) ++ [.returns [], .returns [0, 0, 0xAB, 7]] ++ [] ∧
    (scripted [.returns [], .returns [0, 0, 1]] s0).world.env =
      (if false then [.returns [9]] else []) ++ [.returns [], .returns [0, 0, 1]] ++ [] ∧
    s0.cfg.flushBeforeWrite = true := ⟨s0_idle, rfl, rfl, rfl, rfl⟩
/-- SequenceStarts: the empty sequence, the longest and one more, for both kinds. -/
theorem test_witness_SequenceStarts : s0.busy = false ∧ s0.u2.buf.wf = true ∧ (List.replicate 257 (0 : Byte)).length ≤ 257 ∧
    257 < (List.replicate 258 (0 : Byte)).length ∧ (255 : Half).toNat ≤ 255 ∧ 255 < (256 : Half).toNat ∧
    (0 : Half).toNat = 0 := ⟨rfl, rfl, by decide +kernel, by decide +kernel, by decide, by decide, rfl⟩
/-- WriteElement: an element with a successor, the last one, of I2C_WRS and of an exchange, and a failing one. -/
theorem test_witness_WriteElement :
    let i := Instr.i2cWrs 4 0x10 0x11 [0x55, 0xAA]
    let s := reading i [0, 0, 0xBC, 0]
    let j := Instr.i2cWrs 4 0x10 0x11 [0x55]
    writeSeqOf s.cfg i = some (4, 0x10, 0x11) ∧ s.runs i ∧ s.inBounds = true ∧ s.u1.phase = .recv ∧ s.u2.phase = .wr ∧
    s.u3.phase ≠ .recv ∧ s.reply = .returns [0, 0, 0xBC, 0] ∧
    (responseCheck (s.readable [0, 0, 0xBC, 0]) s.u1.expTxid s.u1.expLen.toNat fun _ => .none).status = .ok ∧
    s.u2.idx.toNat + 1 < s.u2.cnt.toNat ∧ (reading j [0, 0, 0xBC, 0]).u2.idx.toNat + 1 = (reading j [0, 0, 0xBC, 0]).u2.cnt.toNat ∧
    (exchangeOf j).isNone ∧ writeSeqOf s.cfg .psuGetV = some (4, 0x10, 0x11) ∧ (exchangeOf .psuGetV).isSome ∧
    (responseCheck (s.readable []) s.u1.expTxid s.u1.expLen.toNat fun _ => .none).status ≠ .ok :=
  ⟨rfl, ⟨rfl, by decide, rfl, rfl⟩, by decide, by decide, by decide, by decide, rfl, by decide, by decide, by decide, rfl, rfl, rfl,
    by decide⟩
/-- ReadElement: the same for reads. -/
theorem test_witness_ReadElement :
    let i := Instr.i2cRds 4 0x10 none 2
    let s := reading i [0, 0, 0xAB, 7]
    let j := Instr.psuRecv 0x10 (some 1)
    readSeqOf s.cfg i = some (4, 0x10, none) ∧ s.runs i ∧ s.inBounds = true ∧ s.u1.phase = .recv ∧ s.u2.phase = .rd ∧
    s.u3.rpbuf.wf = true ∧ s.reply = .returns [0, 0, 0xAB, 7] ∧
    (responseCheck (s.readable [0, 0, 0xAB, 7]) s.u1.expTxid s.u1.expLen.toNat fun _ => .none).status = .ok ∧
    s.u2.idx.toNat + 1 < s.u2.cnt.toNat ∧ (reading j []).u2.idx.toNat + 1 = (reading j []).u2.cnt.toNat ∧
    readSeqOf s.cfg j = some (4, 0x10, none) ∧ i.sequence = true ∧ j.psuCalls = true ∧ (reading j []).u3.phase = .recv ∧
    (responseCheck (s.readable [0]) s.u1.expTxid s.u1.expLen.toNat fun _ => .none).status ≠ .ok :=
  ⟨rfl, ⟨rfl, by decide, rfl, rfl⟩, by decide, by decide, by decide, rfl, rfl, by decide, by decide, by decide, rfl, rfl, rfl,
    by decide, by decide⟩
/-- Good responses to a write and to a read. -/
def goodWr : List Byte := [0, 0, 0xBC, 1]
def goodRd : List Byte := [0, 0, 0xAB, 7]

theorem goodWr_replicate (n : Nat) : ∀ r ∈ List.replicate n goodWr, goodResponse 0xBC r := fun _ h =>
  (List.mem_replicate.1 h).2 ▸ ⟨rfl, rfl⟩
theorem goodRd_replicate (n : Nat) : ∀ r ∈ List.replicate n goodRd, goodResponse 0xAB r := fun _ h =>
  (List.mem_replicate.1 h).2 ▸ ⟨rfl, rfl⟩
theorem scripted_env (env : List EnvReply) (s : State) : (scripted env s).world.env = env ++ [] := (List.append_nil env).symm

/-- I2cWrsRun and PsuSendRun: 257 bytes all answered, and a bad answer after one good one. -/
theorem test_witness_WriteRuns :
    let bytes := List.replicate 257 (0x55 : Byte)
    let s := scripted (seqReplies true (List.replicate 257 goodWr)) s0
    let f := scripted (seqReplies true (List.replicate 1 goodWr ++ [[0, 0, 0xBC]])) s0
    s.idle ∧ f.idle ∧ s.u1.txbuf.wf = true ∧ s.u2.buf.wf = true ∧ f.u1.txbuf.wf = true ∧ f.u2.buf.wf = true ∧
    bytes.length ≤ 257 ∧ s.cfg.flushBeforeWrite = true ∧ f.cfg.flushBeforeWrite = true ∧
    (∀ r ∈ List.replicate 257 goodWr, goodResponse 0xBC r) ∧ (List.replicate 257 goodWr).length = bytes.length ∧
    s.world.env = seqReplies s.cfg.flushBeforeWrite (List.replicate 257 goodWr) ++ [] ∧
    (∀ r ∈ List.replicate 1 goodWr, goodResponse 0xBC r) ∧ (List.replicate 1 goodWr).length < bytes.length ∧
    [0, 0, (0xBC : Byte)].length ≤ 4 ∧ ¬ goodResponse 0xBC [0, 0, 0xBC] ∧
    f.world.env = seqReplies f.cfg.flushBeforeWrite (List.replicate 1 goodWr ++ [[0, 0, 0xBC]]) ++ [] :=
  ⟨s0_idle, s0_idle, rfl, rfl, rfl, rfl, List.length_replicate.le, rfl, rfl, goodWr_replicate _,
    List.length_replicate.trans List.length_replicate.symm, scripted_env _ _, goodWr_replicate _,
    Nat.lt_of_lt_of_eq (show 1 < 257 by decide) List.length_replicate.symm, by decide, by simp [goodResponse], scripted_env _ _⟩
/-- I2cRdsRun and PsuRecvRun: 255 bytes, eight by default and none, all answered; a wrong id after two good answers. -/
theorem test_witness_ReadRuns :
    let s := fun n => scripted (seqReplies true (List.replicate n goodRd)) s0
    let f := scripted (seqReplies true (List.replicate 2 goodRd ++ [[0, 0, 0xBC, 7]])) s0
    (∀ n ∈ [0, 8, 255], (s n).idle ∧ (s n).u1.txbuf.wf = true ∧ (s n).u2.buf.wf = true ∧ (s n).u3.rpbuf.wf = true ∧
      (∀ r ∈ List.replicate n goodRd, goodResponse 0xAB r) ∧ (List.replicate n goodRd).length = n ∧
      (s n).world.env = seqReplies true (List.replicate n goodRd) ++ []) ∧
    (255 : Half).toNat = 255 ∧ ((none : Option Half).map (·.toNat)).getD 8 = 8 ∧ (0 : Half).toNat = 0 ∧
    f.idle ∧ f.u1.txbuf.wf = true ∧ f.u2.buf.wf = true ∧ f.u3.rpbuf.wf = true ∧
    (∀ r ∈ List.replicate 2 goodRd, goodResponse 0xAB r) ∧ (List.replicate 2 goodRd).length < 8 ∧
    [0, 0, 0xBC, (7 : Byte)].length ≤ 4 ∧ ¬ goodResponse 0xAB [0, 0, 0xBC, 7] ∧
    f.world.env = seqReplies true (List.replicate 2 goodRd ++ [[0, 0, 0xBC, 7]]) ++ [] :=
  ⟨fun n _ => ⟨s0_idle, rfl, rfl, rfl, goodRd_replicate n, by simp, scripted_env _ _⟩, by decide, rfl, rfl, s0_idle, rfl, rfl,
    rfl, goodRd_replicate 2, by decide, by decide, by simp [goodResponse], scripted_env _ _⟩
/-- PsuBuild: 251 fields and 252. -/
theorem test_witness_PsuBuild : s0.busy = false ∧ s0.u3.pkbuf.wf = true ∧ (List.replicate 251 (0 : Byte)).length ≤ 251 ∧
    251 < (List.replicate 252 (0 : Byte)).length := ⟨rfl, rfl, by decide +kernel, by decide +kernel⟩
/-- ExchangeStarts: PSU_CMD inside its bounds and outside each. -/
theorem test_witness_ExchangeStarts : exchangeOf (.psuCmd 1 [2] (some 255)) = some (1, [2], 255) ∧
    exchangeOf (.psuCmd 1 [2] (some 256)) = some (1, [2], 256) ∧ exchangeOf (.psuSetV 0xEE) = some (0x83, [0xEE, 0], 8) ∧
    s0.busy = false ∧ s0.u2.buf.wf = true ∧ s0.u3.pkbuf.wf = true := by decide
/-- PsuExchangeRun and PsuExchangeFails, for PSU_SET_V: eight writes, the delay, eight reads; a bad answer to the third
write; and a bad answer to the second read. -/
theorem test_witness_ExchangeRuns :
    let ws := List.replicate 8 goodWr
    let rs := List.replicate 8 goodRd
    let s := scripted (seqReplies true ws ++ [.returns [9]] ++ seqReplies true rs) s0
    let f := scripted (seqReplies true (List.replicate 2 goodWr ++ [[0]])) s0
    let g := scripted (seqReplies true ws ++ [.returns [9]] ++ seqReplies true (List.replicate 1 goodRd ++ [[0]])) s0
    exchangeOf (.psuSetV 0xEE) = some (0x83, [0xEE, 0x00], 8) ∧ [0xEE, (0x00 : Byte)].length ≤ 251 ∧
    (∀ t ∈ [s, f, g], t.idle ∧ t.u1.txbuf.wf = true ∧ t.u2.buf.wf = true ∧ t.u3.pkbuf.wf = true ∧ t.u3.rpbuf.wf = true ∧
      t.cfg.flushBeforeWrite = true) ∧
    ws.length = [0xEE, (0x00 : Byte)].length + 6 ∧ (∀ r ∈ ws, goodResponse 0xBC r) ∧ rs.length = 8 ∧
    (∀ r ∈ rs, goodResponse 0xAB r) ∧
    s.world.env = seqReplies s.cfg.flushBeforeWrite ws ++ [.returns [9]] ++ seqReplies true rs ++ [] ∧
    (List.replicate 2 goodWr).length < [0xEE, (0x00 : Byte)].length + 6 ∧ [(0 : Byte)].length ≤ 4 ∧
    (∀ r ∈ List.replicate 2 goodWr, goodResponse 0xBC r) ∧ ¬ goodResponse 0xBC [0] ∧
    f.world.env = seqReplies f.cfg.flushBeforeWrite (List.replicate 2 goodWr ++ [[0]]) ++ [] ∧
    (List.replicate 1 goodRd).length < 8 ∧ (∀ r ∈ List.replicate 1 goodRd, goodResponse 0xAB r) ∧ ¬ goodResponse 0xAB [0] ∧
    g.world.env = seqReplies g.cfg.flushBeforeWrite ws ++ [.returns [9]] ++
      seqReplies true (List.replicate 1 goodRd ++ [[0]]) ++ [] := by
  refine ⟨rfl, by decide, fun t ht => ?_, rfl, goodWr_replicate _, rfl, goodRd_replicate _, scripted_env _ _, by decide, by decide,
    goodWr_replicate _, by simp [goodResponse], scripted_env _ _, by decide, goodRd_replicate _, by simp [goodResponse],
    scripted_env _ _⟩
  simp only [List.mem_cons, List.not_mem_nil, or_false] at ht
  obtain rfl | rfl | rfl := ht <;> exact ⟨s0_idle, rfl, rfl, rfl, rfl, rfl⟩
/-- VoltageCommands: the two edges of the range and the values beyond them. -/
theorem test_witness_VoltageCommands : s0.busy = false ∧ 11771 ≤ (11771 : Half).toNat ∧ (15098 : Half).toNat ≤ 15098 ∧
    (11770 : Half).toNat < 11771 ∧ 15098 < (15099 : Half).toNat := by decide
/-- VoltageRoundTrip: an encode and a decode that answer. -/
theorem test_witness_VoltageRoundTrip : resultOf (exec (.voltEnc 15098) s0) = some ⟨.ok, .byte 0⟩ ∧
    resultOf (exec (.voltDec 0xFF) s0) = some ⟨.ok, .num 11777⟩ := by decide
/-- AwEnc and AwDec: a list, and the two ways a list is bad. -/
theorem test_witness_AwDec : s0.busy = false ∧ [(0xA5 : Byte)].length % 2 = 1 ∧ [(0xA5 : Byte), 1].length ≠ 2 * (2 : Half).toNat ∧
    [(0xA5 : Byte), 1].length = 2 * (1 : Half).toNat := by decide
/-- AsicWordLaws: words of nine bits, encoded; bytes, decoded. -/
theorem test_witness_AsicWordLaws : (∀ w ∈ [(0x1FF : Half), 0x003], w.toNat ≤ 511) ∧
    resultOf (exec (.awEnc [0x1FF, 0x003]) s0) = some ⟨.ok, .bytes [0xFF, 0x01, 0x03, 0x00]⟩ ∧
    resultOf (exec (.awDec [0xA5, 0xFF] none) s0) = some ⟨.ok, .words [0x1A5]⟩ :=
  ⟨by simp, by decide, by decide⟩
/-- FrameRows, for each of the four command bytes. -/
theorem test_witness_FrameRows : ([0x7E, 0x20, 0x30, 0x40].map fun c =>
      let s := s0.placeFrame 4 1 2 c []
      s.calling && s.inBounds && decide (s.u1.phase = .send) && decide (s.reply = .returns []) &&
        decide (s.u1.txbuf.readList 0 s.u1.txlen.toNat = [4, 0x00, 1, 0x00, 2, c] ++ [])) = List.replicate 4 true := by decide
/-- PacketRows, for each of the six rows. -/
theorem test_witness_PacketRows : ([Instr.psuPacket 0x04 0xFC [] 0x00 0x01, .psuPktGetHwver, .psuPktCfgWdt 0x01 0x88 0x00,
      .psuPktSetV 0xEE 0x77 0x01, .psuPktGetV, .psuPktMeasV].map fun i =>
      let s := s0.placePacket (encode i)
      s.calling && s.inBounds && decide (s.u1.phase = .send) && decide (s.u2.phase = .wr) && decide (s.u3.phase = .send) &&
        decide (s.reply = .returns []) && decide (s.u2.buf.readList 0 s.u2.cnt.toNat = encode i)) = List.replicate 6 true := by
  decide
/-- ResponseRow. -/
theorem test_witness_ResponseRow :
    let i := Instr.i2cRdb 5 0x48 none none
    let s := reading i [0, 0, 0xAB, 7]
    i.calls = true ∧ s.runs i ∧ s.inBounds = true ∧ s.u1.phase = .recv ∧ s.reply = .returns [0, 0, 0xAB, 7] ∧
      s.readable [0, 0, 0xAB, 7] = [0, 0, 0xAB] ++ [7] :=
  ⟨rfl, ⟨rfl, by decide, rfl, rfl⟩, by decide, by decide, rfl, by decide⟩
/-- AsicPairRow: AW_ENC's second pair, and AW_DEC's only one. -/
theorem test_witness_AsicPairRow : (after (.awEnc [0x1A5, 3]) 1 s0).busy = true ∧ (after (.awEnc [0x1A5, 3]) 1 s0).hung = false ∧
    (after (.awEnc [0x1A5, 3]) 1 s0).done = some ⟨.ok, .bytes [0xA5, 1, 3, 0]⟩ ∧
    (after (.awEnc [0x1A5, 3]) 1 s0).latch.instr = some (.awEnc [0x1A5, 3]) ∧ 2 * 1 + 1 < [0xA5, 1, 3, (0 : Byte)].length ∧
    (after (.awDec [0xA5, 1] none) 1 s0).done = some ⟨.ok, .words [0x1A5]⟩ ∧
    (after (.awDec [0xA5, 1] none) 1 s0).latch.instr = some (.awDec [0xA5, 1] none) := by decide
/-- WireRowsAreNoCommands. -/
theorem test_witness_WireRowsAreNoCommands : (Instr.asicPair 0 true).channel ≠ .cmd ∧ s0.busy = false := by decide
/-- The frames: a command of each kind that answers a next state, at acceptance and while it runs. -/
theorem test_witness_frames : (Instr.voltDec 0).storesNothing = true ∧ (∃ t, exec (.voltDec 0) s0 = .next t) ∧
    (∃ t, exec (.fcBuild 1 2 3 []) s0 = .next t) ∧ (∃ t, exec (.psuBuild 1 []) s0 = .next t) ∧ s0.u3.pkbuf.wf = true ∧
    (Instr.i2cRdb 5 0x48 none none).oneTransaction = true ∧ s0.u1.rxbuf.wf = true ∧
    (∃ t, exec (.i2cRdb 5 0x48 none none) (reading (.i2cRdb 5 0x48 none none) [0]) = .next t) ∧
    (Instr.i2cRds 4 0x10 none 2).sequence = true ∧
    (∃ t, exec (.i2cRds 4 0x10 none 2) (reading (.i2cRds 4 0x10 none 2) [0, 0, 0xAB, 1]) = .next t) ∧
    Instr.psuGetV.psuCalls = true ∧ s0.Inv ∧ (∃ t, exec .psuGetV s0 = .next t) :=
  ⟨rfl, ⟨_, rfl⟩, ⟨_, rfl⟩, ⟨_, rfl⟩, rfl, rfl, rfl, ⟨_, rfl⟩, rfl, ⟨_, rfl⟩, rfl, s0_inv, _, rfl⟩
/-- StepKeepsInvariant, BlockNeverFaults: the invariant of an idle, of a running and of a waiting block. -/
theorem test_witness_Inv : s0.Inv ∧ (begun .psuGetV [.returns []]).Inv ∧ waiting.Inv ∧ waiting.busy = true ∧
    (∃ t, step (begun .psuGetV [.returns []]) = .next t) := ⟨s0_inv, inv_of (by decide), inv_of (by decide), rfl, _, rfl⟩
/-- EveryWriteIsAFrame: a step that writes. -/
theorem test_witness_EveryWriteIsAFrame : (s0.placeFrame 4 1 2 0x7E []).Inv ∧
    eventsOf (step (s0.placeFrame 4 1 2 0x7E [])) = [] ++ [.write [4, 0, 1, 0, 2, 0x7E]] := ⟨inv_of (by decide), by decide⟩
/-- StatusTables: a step that delivers. -/
theorem test_witness_StatusTables : eventsOf (step { waiting with world := { waiting.world with hist := [] } }) =
    [] ++ [.rsp ⟨.ok, .num 13792⟩] := by decide
/-- InvalidArgumentExactly: an operand of each side; a later step that ends a command; an unlisted code. -/
theorem test_witness_InvalidArgumentExactly : s0.idle ∧ (Instr.voltEnc 11770).badOperand = true ∧
    (Instr.voltEnc 11771).badOperand = false ∧ (reading (.i2cRdb 5 0x48 none none) []).runs (.i2cRdb 5 0x48 none none) ∧
    resultOf (exec (.i2cRdb 5 0x48 none none) (reading (.i2cRdb 5 0x48 none none) [])) = some ⟨.noData, .none⟩ ∧
    (operandReader (0x04 : Byte).toNat).isNone = true :=
  ⟨s0_idle, by decide, by decide, ⟨rfl, by decide, rfl, rfl⟩, by decide, rfl⟩
/-- FailureIsPrecise: a read that ends its command. -/
theorem test_witness_FailureIsPrecise : (reading (.i2cRdb 5 0x48 none none) []).Inv ∧
    (reading (.i2cRdb 5 0x48 none none) []).busy = true ∧ (reading (.i2cRdb 5 0x48 none none) []).done = none ∧
    resultOf (exec (.i2cRdb 5 0x48 none none) (reading (.i2cRdb 5 0x48 none none) [])) = some ⟨.noData, .none⟩ :=
  ⟨inv_of (by decide), rfl, rfl, by decide⟩
/-- HistoryIgnoresOldState: two idle blocks, one with old contents everywhere. -/
theorem test_witness_HistoryIgnoresOldState :
    let u : State := { s0 with status := 5, latch := { op := 0x28 }, u1 := { s0.u1 with txbuf := [(3, 7)], txlen := 9, expLen := 4 },
                               u3 := { s0.u3 with pkbuf := [(0, 1)] } }
    s0.idle ∧ u.idle ∧ s0.buffersOk = true ∧ u.buffersOk = true ∧ s0.cfg = u.cfg ∧ s0.world.env = u.world.env ∧
      s0.world.calls = u.world.calls ∧ s0.world.rxIn = u.world.rxIn ∧ ∃ s', execRun (.voltDec 0) 2 s0 = .next s' :=
  ⟨s0_idle, ⟨rfl, rfl, rfl, rfl⟩, by decide, by decide, rfl, rfl, rfl, rfl, _, rfl⟩
/-- CommandsEnd: a running PSU_GET_V whose every call returns. -/
theorem test_witness_CommandsEnd :
    let s := begun .psuGetV (List.replicate 1537 (.returns []))
    s.Inv ∧ s.busy = true ∧ s.hung = false ∧ s.world.host = [] ∧ 1537 ≤ s.world.env.length ∧ ∀ r ∈ s.world.env, r ≠ .never := by
  refine ⟨?_, rfl, rfl, rfl, ?_, ?_⟩
  · have h : (begun .psuGetV []).Inv := inv_of (by decide)
    exact ⟨h.1, h.2, h.3, h.4, h.5⟩
  · change 1537 ≤ (List.replicate 1537 (EnvReply.returns [])).length
    rw [List.length_replicate]
  · intro r hr
    rw [(List.mem_replicate (n := 1537) (a := EnvReply.returns [])).1 hr |>.2]
    exact fun h => EnvReply.noConfusion h

end Sys2Proof.Tests
end

namespace Sys2Proof.Machine

/-! ## The operands a latch holds -/

theorem instr_i2cWrs {l : Latch} {page addr reg : Byte} {b : List Byte} (h : l.instr = some (.i2cWrs page addr reg b)) :
    l.page = page ∧ l.addr = addr ∧ l.reg = reg := by
  unfold Latch.instr at h
  split at h <;> cases h
  exact ⟨rfl, rfl, rfl⟩

theorem instr_i2cRds {l : Latch} {page addr : Byte} {reg : Option Byte} {c : Half}
    (h : l.instr = some (.i2cRds page addr reg c)) : l.page = page ∧ l.addr = addr ∧ l.regGiven = reg := by
  unfold Latch.instr at h
  split at h <;> cases h
  exact ⟨rfl, rfl, rfl⟩

theorem instr_psuSend {l : Latch} {addr reg : Byte} {b : List Byte} (h : l.instr = some (.psuSend addr reg b)) :
    l.addr = addr ∧ l.reg = reg := by
  unfold Latch.instr at h
  split at h <;> cases h
  exact ⟨rfl, rfl⟩

theorem instr_psuRecv {l : Latch} {addr : Byte} {c : Option Half} (h : l.instr = some (.psuRecv addr c)) :
    l.addr = addr := by
  unfold Latch.instr at h
  split at h <;> cases h
  rfl

theorem instr_psuCmd {l : Latch} {opcode : Byte} {fields : List Byte} {c : Option Half}
    (h : l.instr = some (.psuCmd opcode fields c)) : l.countGiven = c := by
  unfold Latch.instr at h
  split at h <;> cases h
  rfl

/-! ## The four shapes of a command that makes calls

One transaction, a write sequence, a read sequence, an exchange (a write sequence, the settle delay and a read
sequence): what each command does at acceptance, after a transaction and after the delay, by its shape. -/

/-- The data of a one-transaction command (R116, R130, R131). -/
def xactData : Instr → List Byte → Data
  | .fcXact .., p => .bytes p
  | .i2cRdb .., p => .byte (p.getD 0 0)
  | _, _ => .none

/-- What a write sequence leads to when its last element is done (R134, R152, R154). -/
def writeEnd (i : Instr) : State → State :=
  if (exchangeOf i).isSome then State.psPhase .settle else State.succeed .none

/-- What a read sequence leads to when its last element is done (R135, R153, R154). -/
def readEnd (i : Instr) (b : List Byte) : State → State :=
  if i.sequence then State.succeed (.bytes b) else endReply (replyData i) b

theorem measVData_eq : measVData = replyData .psuMeasV := by
  funext b
  refine congrArg Data.num (BitVec.eq_of_toNat_eq ?_)
  rw [measRaw, BitVec.toNat_append, BitVec.toNat_ofNat, ← Nat.shiftLeft_add_eq_or_of_lt (b.getD 4 0).isLt,
    Nat.shiftLeft_eq]
  have h4 := (b.getD 4 0).isLt
  have h5 := (b.getD 5 0).isLt
  omega

theorem afterOf_oneTransaction {i : Instr} (h : i.oneTransaction = true) (q : XactResult) (s : State) :
    afterOf (some i) q s = s.finishWith (xactData i) q := by
  cases i <;> first | exact Bool.noConfusion h | rfl

theorem afterExchange_write (d : List Byte → Data) (q : XactResult) {s : State} (h : s.u3.phase ≠ .recv) :
    afterExchange d q s =
      s.afterWriteElem s.cfg.psuPage s.cfg.psuAddr s.cfg.psuReg (State.psPhase .settle) sendFailed q := by
  unfold afterExchange
  split
  · contradiction
  · rfl

theorem afterExchange_read (d : List Byte → Data) (q : XactResult) {s : State} (h : s.u3.phase = .recv) :
    afterExchange d q s = s.afterReadElem s.cfg.psuPage s.cfg.psuAddr none (endReply d) replyFailed q := by
  unfold afterExchange
  rw [h]

/-- After an element of a command's write sequence. -/
theorem afterOf_write {i : Instr} {page addr reg : Byte} {s : State}
    (hw : writeSeqOf s.cfg i = some (page, addr, reg)) (hl : s.latch.instr = some i)
    (hp : (exchangeOf i).isSome → s.u3.phase ≠ .recv) (q : XactResult) :
    afterOf (some i) q s =
      s.afterWriteElem page addr reg (writeEnd i) (fun e t => t.fail (writeFailure i e)) q := by
  cases i <;> cases hw
  case i2cWrs =>
    obtain ⟨rfl, rfl, rfl⟩ := instr_i2cWrs hl
    rfl
  case psuSend =>
    obtain ⟨rfl, rfl⟩ := instr_psuSend hl
    rfl
  all_goals exact afterExchange_write _ q (hp rfl)

/-- After an element of a command's read sequence. -/
theorem afterOf_read {i : Instr} {page addr : Byte} {reg : Option Byte} {s : State}
    (hr : readSeqOf s.cfg i = some (page, addr, reg)) (hl : s.latch.instr = some i)
    (hp : (exchangeOf i).isSome → s.u3.phase = .recv) (q : XactResult) :
    afterOf (some i) q s =
      s.afterReadElem page addr reg (readEnd i) (fun e t => t.fail (readFailure i e)) q := by
  cases i <;> cases hr
  case i2cRds =>
    obtain ⟨rfl, rfl, rfl⟩ := instr_i2cRds hl
    rfl
  case psuRecv =>
    obtain rfl := instr_psuRecv hl
    rfl
  case psuMeasV =>
    change afterExchange measVData q s = _
    rw [measVData_eq]
    exact afterExchange_read _ q (hp rfl)
  all_goals exact afterExchange_read _ q (hp rfl)

/-- After the settle delay of an exchange its read sequence begins. -/
theorem settledOf_exchange {i : Instr} {opcode : Byte} {fields : List Byte} {c : Nat} {s : State}
    (he : exchangeOf i = some (opcode, fields, c)) (hl : s.latch.instr = some i) :
    settledOf i s =
      (s.psPhase .recv).startReadSeq s.cfg.psuPage s.cfg.psuAddr none c (readEnd i) := by
  cases i <;> cases he
  case psuCmd =>
    obtain rfl := instr_psuCmd hl
    change settledExchange s.latch.replyCount .bytes s = _
    rw [replyCount_given]
    rfl
  case psuMeasV =>
    change settledExchange 8 measVData s = _
    rw [measVData_eq]
    rfl
  all_goals rfl

/-- Only an exchange has a settle delay. -/
theorem settledOf_noExchange {i : Instr} (he : exchangeOf i = none) : settledOf i = State.noSettle := by
  cases i <;> first | rfl | cases he

end Sys2Proof.Machine

namespace Sys2Proof.Machine

/-! ## A step, in terms of the host's inputs -/

theorem tick_nil {s : State} (h : s.world.host = []) : s.tick = s := by
  simp [State.tick, h]

theorem tick_wait {s : State} {later : List HostInput} (h : s.world.host = .wait :: later) :
    s.tick = { s with world := { s.world with host := later } } := by
  simp [State.tick, h]

theorem tick_accepts {s : State} {bytes : List Byte} {later : List HostInput} (hb : s.busy = false)
    (h : s.world.host = .cmd bytes :: later) : s.tick = { s with world := { s.world with host := later } } := by
  simp [State.tick, h, hb]

theorem tick_holds {s : State} {bytes : List Byte} {later : List HostInput} (hb : s.busy = true)
    (h : s.world.host = .cmd bytes :: later) : s.tick = s := by
  simp [State.tick, h, hb]

@[simp] theorem tick_hist (s : State) : s.tick.world.hist = s.world.hist := by
  obtain ⟨host, h⟩ := tick_eq s
  rw [h]

/-- While `BUSY = 1` and no reset comes, a step is one of the command in the latch. -/
theorem step_running {s : State} {i : Instr} (hr : s.noReset) (hb : s.busy = true) (hl : s.latch.instr = some i) :
    step s = exec i s.tick := by
  simp only [step, fetch_busy hr hb, hl]

/-- Settles O5. -/
theorem stepRunsTheCommand : Obligations.StepRunsTheCommand := by
  refine ⟨fun s bytes rest later i hb hh hd hw => ?_, fun s i hb hl => ⟨fun hh => ?_, fun bytes later hh => ?_,
    fun later hh => ?_⟩⟩
  · simp only [step, fetch_cmd hb hh, fetchRecord, hd, if_pos hw, tick_accepts hb hh]
  · rw [step_running (by simp [State.noReset, hh]) hb hl, tick_nil hh]
  · rw [step_running (by simp [State.noReset, hh]) hb hl, tick_holds hb hh]
  · rw [step_running (by simp [State.noReset, hh]) hb hl, tick_wait hh]

/-- Settles O6. -/
theorem acceptanceLatchesRecord : Obligations.AcceptanceLatchesRecord := by
  refine ⟨fun i s hi hb => ?_, fun i s hi hb hl => ?_, fun s t bytes later hb hh ht => ?_⟩
  · have top := sameTop_startOf i (s.accepted i)
    exact ⟨_, exec_accept i hi s hb, top.busy, top.latch, by rw [top.latch]; exact latchOf_instr i hi, top.status,
      top.cfg, top.world⟩
  · rw [exec_command i hi, State.runCommand_other _ _ _ _ hb (by rwa [latchOf_instr i hi])]
  · rcases step_busy_cases (by simp [State.noReset, hh]) hb ht with ⟨_, rfl⟩ | ⟨r, _, _, rfl⟩ | ⟨i, _, _, _, _, hc⟩
    · rw [tick_holds hb hh]
      exact ⟨rfl, rfl⟩
    · rw [tick_holds hb hh]
      exact ⟨rfl, rfl⟩
    · rw [tick_holds hb hh] at hc
      obtain ⟨_, _, _, hlatch, hhost, _⟩ := transport_top hc
      exact ⟨hhost, hlatch⟩

/-- In a state that meets the invariant a waiting result is one of the running command's. -/
theorem inv_done {s : State} {r : Rsp} (h : s.Inv) (hb : s.busy = true) (hd : s.done = some r) :
    s.hung = false ∧ s.unitsIdle = true ∧ s.resultOk r = true := by
  have := h.control
  simpa [State.controlOk, hb, hd, and_assoc] using this

/-- Settles O7. -/
theorem deliveryIsOneStep : Obligations.DeliveryIsOneStep := by
  refine fun i s r hi hb hl hh hd => ⟨?_, fun hinv hne => ?_⟩
  · rw [exec_command i hi, State.runCommand_running _ _ _ _ hb (hl.trans (latchOf_instr i hi).symm),
      State.resume_deliver _ _ r hh hd]
    rfl
  · obtain ⟨_, _, hres⟩ := inv_done hinv hb hd
    simpa [State.resultOk, hne] using (Bool.and_eq_true_iff.1 hres).2

/-- Settles O8. -/
theorem oneEventPerStep : Obligations.OneEventPerStep := by
  intro s t hnr h
  rcases step_cases h with ⟨hr, _⟩ | ⟨_, _, rfl⟩ | ⟨_, _, i, _, hb, _, _, _, _, rfl⟩ | ⟨_, _, op, hb, _, _, rfl⟩ |
    ⟨_, _, _, rfl⟩ | ⟨r, _, hb, _, hd, rfl⟩ | ⟨i, _, hb, _, _, _, _, hc⟩
  · exact absurd hr hnr
  · exact .inl ⟨tick_hist s, tick_busy s⟩
  · have top := sameTop_startOf i (s.tick.accept (latchOf i))
    exact .inr (.inl ⟨hb, top.busy, by rw [top.world, top.latch]; simp⟩)
  · exact .inr (.inl ⟨hb, rfl, by simp [State.acceptIllegal]⟩)
  · exact .inl ⟨tick_hist s, tick_busy s⟩
  · exact .inr (.inr (.inr ⟨hb, rfl, r, hd, by simp, rfl⟩))
  · obtain ⟨_, hbusy, _, _, _, _, _, ⟨_, rfl⟩ | ⟨_, _, e, he, hev⟩⟩ := transport_top hc
    · exact .inl ⟨by simp, hbusy.trans (tick_busy s)⟩
    · exact .inr (.inr (.inl ⟨hb, by rw [hbusy, tick_busy, hb], e, he, by rw [hev, tick_hist]⟩))

/-! ## The configuration -/

/-- What the running command does after a transaction, whichever it is, leaves configuration and flags alone. -/
theorem sameTop_afterOf_latch (o : Option Instr) (q : XactResult) (s : State) : SameTop s (afterOf o q s) := by
  cases o with
  | none => exact SameTop.refl s
  | some i => exact sameTop_afterOf i q s

/-- A transport step of any command keeps the configuration. -/
theorem transport_cfg {after : XactResult → State → State} {settled : State → State} {s t : State}
    (ha : ∀ q u, SameTop u (after q u)) (hs : ∀ u, SameTop u (settled u)) (h : s.transport after settled = .next t) :
    t.cfg = s.cfg := by
  obtain ⟨_, ⟨_, rfl⟩ | ⟨a, _, ⟨_, rfl⟩ | ⟨_, rfl⟩ | ⟨_, rfl⟩ | ⟨_, _, rfl⟩⟩⟩ := State.transport_cases _ _ _ h
  · rfl
  · rfl
  · rfl
  · exact (ha _ _).cfg
  · exact (hs _).cfg

theorem sendOnly_cfg {s t : State} (h : s.sendOnly = .next t) : t.cfg = s.cfg :=
  transport_cfg (fun _ _ => SameTop.refl _) (fun _ => SameTop.refl _) h

theorem execFrameBytes_cfg {f : List Byte} {s t : State} (h : execFrameBytes f s = .next t) : t.cfg = s.cfg := by
  unfold execFrameBytes at h
  split at h
  · exact sendOnly_cfg h
  · cases h

theorem execPacketBytes_cfg {p : List Byte} {s t : State} (h : execPacketBytes p s = .next t) : t.cfg = s.cfg := by
  unfold execPacketBytes at h
  split at h
  · exact sendOnly_cfg h
  · cases h

theorem execResponse_cfg {b0 b1 id : Byte} {p : List Byte} {s t : State} (h : execResponse b0 b1 id p s = .next t) :
    t.cfg = s.cfg := by
  unfold execResponse at h
  split at h
  · exact transport_cfg (sameTop_afterOf_latch _) (fun _ => SameTop.refl _) h
  · cases h

theorem execAsicPair_cfg {b0 : Byte} {b : Bool} {s t : State} (h : execAsicPair b0 b s = .next t) : t.cfg = s.cfg := by
  unfold execAsicPair at h
  split at h
  · cases h
    rfl
  · cases h

theorem exec_wire_cfg {i : Instr} {s t : State} (hi : i.channel ≠ .cmd) (h : exec i s = .next t) : t.cfg = s.cfg := by
  cases i with
  | frame | frameI2cWrite | frameI2cRead | frameI2cReadwrite => exact execFrameBytes_cfg h
  | psuPacket | psuPktGetHwver | psuPktCfgWdt | psuPktSetV | psuPktGetV | psuPktMeasV => exact execPacketBytes_cfg h
  | response => exact execResponse_cfg h
  | asicPair => exact execAsicPair_cfg h
  | _ => exact absurd rfl hi

theorem frameTop_refl (i : Instr) (s : State) : FrameTop i s s := ⟨rfl, rfl, .inl rfl, .inl rfl, .inl rfl⟩

/-- Settles O46. -/
theorem commandFrame : Obligations.CommandFrame := by
  intro i s t hi h
  rcases exec_command_cases s i hi h with ⟨hb, rfl⟩ | ⟨_, _, rfl⟩ | ⟨_, _, _, rfl⟩ | ⟨r, _, _, _, hd, rfl⟩ | ⟨_, _, hc⟩
  · have top := sameTop_startOf i (s.accept (latchOf i))
    exact ⟨top.cfg, by rw [top.world]; rfl, .inr ⟨hb, top.latch⟩, .inr (.inl ⟨hb, top.busy⟩), .inl top.status⟩
  · exact frameTop_refl i t
  · exact frameTop_refl i t
  · exact ⟨rfl, rfl, .inl rfl, .inr (.inr ⟨by rw [hd]; rfl, rfl⟩), .inr ⟨r, hd, rfl, rfl⟩⟩
  · obtain ⟨hcfg, hbusy, hstatus, hlatch, hhost, _⟩ := transport_top hc
    exact ⟨hcfg, hhost, .inl hlatch, .inl hbusy, .inl hstatus⟩

theorem exec_cfg {i : Instr} {s t : State} (h : exec i s = .next t) : t.cfg = s.cfg := by
  by_cases hi : i.channel = .cmd
  · exact (commandFrame i s t hi h).cfg
  · exact exec_wire_cfg hi h

/-- Settles O10. -/
theorem configurationIsConstant : Obligations.ConfigurationIsConstant := by
  refine ⟨fun s t h => ?_, fun i s t => exec_cfg⟩
  rcases step_cases h with ⟨_, rfl⟩ | ⟨_, _, rfl⟩ | ⟨_, _, i, _, _, _, _, _, _, rfl⟩ | ⟨_, _, op, _, _, _, rfl⟩ |
    ⟨_, _, _, rfl⟩ | ⟨r, _, _, _, _, rfl⟩ | ⟨i, _, _, _, _, _, _, hc⟩
  · rfl
  · exact State.tick_cfg s
  · exact (sameTop_startOf i _).cfg.trans (State.tick_cfg s)
  · exact State.tick_cfg s
  · exact State.tick_cfg s
  · exact State.tick_cfg s
  · obtain ⟨hcfg, _⟩ := transport_top hc
    exact hcfg.trans (State.tick_cfg s)

/-! ## Elements of a sequence -/

theorem writeSeqOf_calls {c : Config} {i : Instr} {x : Byte × Byte × Byte} (h : writeSeqOf c i = some x) :
    i.calls = true := by
  cases i <;> first | rfl | cases h

theorem readSeqOf_calls {c : Config} {i : Instr} {x : Byte × Byte × Option Byte} (h : readSeqOf c i = some x) :
    i.calls = true := by
  cases i <;> first | rfl | cases h

/-- Settles O26: the three ends of an element of a write sequence, for the shape that every such command has. -/
theorem writeElement : Obligations.WriteElement := by
  intro i page addr reg s a hw hrun hb hp hwr hrd hr q t
  obtain ⟨hlt, hcnt⟩ := inBounds_wr hb hwr
  have hexec := exec_recv i s a (writeSeqOf_calls hw) hrun hb hp hr
  obtain ⟨_, hl, _⟩ := hrun
  rw [afterOf_write (s := s.afterRead a) hw hl (fun _ => hrd)] at hexec
  refine ⟨fun hq hi => ?_, fun hq hi he => ?_, fun hq hi he => ?_, fun hq => ?_⟩
  · rw [hexec, parseResponse_ok hq, afterWriteElem_more _ _ _ _ _ _ (s.afterRead a) hi hcnt]
    rfl
  · rw [hexec, parseResponse_ok hq, afterWriteElem_last _ _ _ _ _ _ (s.afterRead a) hi hcnt, writeEnd,
      if_neg (by simpa using he)]
    rfl
  · rw [hexec, parseResponse_ok hq, afterWriteElem_last _ _ _ _ _ _ (s.afterRead a) hi hcnt, writeEnd, if_pos he]
    rfl
  · rw [hexec, parseResponse_fail hq, afterWriteElem_fail]
    rfl

theorem getD_drop (r : List Byte) (n : Nat) : (r.drop n).getD 0 0 = r.getD n 0 := by
  simp [List.getD_eq_getElem?_getD]

/-- The reply goes through `RPBUF` unchanged (R25, R153). -/
theorem endReply_withResult (d : List Byte → Data) (b : List Byte) (s : State) (hm : s.u3.rpbuf.wf = true)
    (hl : b.length ≤ 255) :
    endReply d b s = State.withResult ⟨.ok, d b⟩ (s.loadReply b) := by
  have hread : (s.u3.rpbuf.writeList 0 b).readList 0 (BitVec.ofNat 8 b.length).toNat = b := by
    rw [toNat_ofNat8 _ (by omega), Memory.readList_writeList _ hm]
  change State.succeed (d ((s.u3.rpbuf.writeList 0 b).readList 0 (BitVec.ofNat 8 b.length).toNat)) _ = _
  rw [hread]
  rfl

theorem readEnd_sequence {i : Instr} (h : i.sequence = true) (b : List Byte) :
    readEnd i b = State.succeed (.bytes b) := if_pos h

theorem readEnd_psu {i : Instr} (h : i.psuCalls = true) (b : List Byte) : readEnd i b = endReply (replyData i) b := by
  cases i <;> first | rfl | cases h

/-- Settles O27: the three ends of an element of a read sequence, for the shape that every such command has. -/
theorem readElement : Obligations.ReadElement := by
  intro i page addr reg s a hw hrun hb hp hrd hm hps hr q t buf bytes
  obtain ⟨hlt, hcnt⟩ := inBounds_rd hb hrd
  have hexec := exec_recv i s a (readSeqOf_calls hw) hrun hb hp hr
  obtain ⟨_, hl, _⟩ := hrun
  rw [afterOf_read (s := s.afterRead a) hw hl hps] at hexec
  refine ⟨fun hq hi => ?_, fun hq hi hs => ?_, fun hq hi hs => ?_, fun hq => ?_⟩
  · rw [hexec, parseResponse_ok hq, afterReadElem_more _ _ _ _ _ _ (s.afterRead a) hi hcnt, getD_drop]
    rfl
  · rw [hexec, parseResponse_ok hq, afterReadElem_last _ _ _ _ _ _ (s.afterRead a) hi hcnt, getD_drop,
      readEnd_sequence hs]
    rfl
  · rw [hexec, parseResponse_ok hq, afterReadElem_last _ _ _ _ _ _ (s.afterRead a) hi hcnt, getD_drop, readEnd_psu hs,
      endReply_withResult]
    · simp only [State.loadReply, Memory.length_readList]
      rfl
    · exact hm
    · rw [Memory.length_readList]
      exact hcnt
  · rw [hexec, parseResponse_fail hq, afterReadElem_fail]
    rfl

end Sys2Proof.Machine

namespace Sys2Proof.Machine

/-! ## Acceptance, by the shape of the command -/

theorem startOf_bad {i : Instr} {s : State} (hc : i.calls = true) (hb : i.badOperand = true)
    (hl : s.latch = latchOf i) : startOf i s = s.fail .invalidArgument := by
  cases i with
  | fcXact => exact if_pos (by simpa [hl, latchOf, Instr.badOperand, maxPayload, maxRspPayload] using hb)
  | i2cWrs => exact if_pos (by simpa [hl, latchOf, Instr.badOperand, maxWrSeq] using hb)
  | i2cRds => exact if_pos (by simpa [hl, latchOf, Instr.badOperand, maxRdSeq] using hb)
  | psuSend => exact if_pos (by simpa [hl, latchOf, Instr.badOperand, maxWrSeq] using hb)
  | psuRecv addr count =>
    have hcount := replyCount_latch count s.latch (by rw [hl]; rfl) (by rw [hl]; rfl)
    cases count with
    | none => cases hb
    | some c => exact if_pos (by rw [hcount]; simpa [Instr.badOperand, maxRdSeq] using hb)
  | psuCmd opcode fields count =>
    have hcount := replyCount_latch count s.latch (by rw [hl]; rfl) (by rw [hl]; rfl)
    exact if_pos (by rw [hcount, hl]; simpa [latchOf, Instr.badOperand, maxPsuPayload, maxRdSeq] using hb)
  | _ => first | cases hb | cases hc

/-- A one-transaction command starts one transaction, the same from every state with its record. -/
theorem startOf_oneTransaction {i : Instr} (h : i.oneTransaction = true) (hg : i.badOperand = false) (c : Config) :
    ∃ page cmd txid payload n flush, payload.length ≤ 250 ∧ n ≤ 250 ∧ ∀ s : State, s.latch = latchOf i → s.cfg = c →
      startOf i s = s.awaiting flush (buildFrame page cmd txid payload) txid n := by
  cases i with
  | fcXact page cmd txid payload expLen flush =>
    obtain ⟨hp, hn⟩ : payload.length ≤ 250 ∧ expLen.toNat ≤ 250 := by simpa [Instr.badOperand] using hg
    refine ⟨page, cmd, txid, payload, expLen.toNat, flush, hp, hn, fun s hl _ => ?_⟩
    change startFcXact s = _
    rw [startFcXact, hl, if_neg (by simp [latchOf, maxPayload, maxRspPayload, hp, hn]), startXact_awaiting]
    rfl
  | i2cWrb page addr reg value txid =>
    refine ⟨page, 0x20, (latchOf (.i2cWrb page addr reg value txid)).wrTxid, wrPayload c addr reg value, 1,
      c.flushBeforeWrite, payloadOf_length _ _, by omega, fun s hl hc => ?_⟩
    subst hc
    change s.startWrite s.latch.page s.latch.addr s.latch.reg s.latch.value s.latch.wrTxid = _
    rw [hl, startWrite_awaiting]
    rfl
  | i2cRdb page addr reg txid =>
    cases reg with
    | none =>
      refine ⟨page, 0x30, (latchOf (.i2cRdb page addr none txid)).rdTxid, rdPayload c addr, 1, true,
        payloadOf_length _ _, by omega, fun s hl hc => ?_⟩
      subst hc
      change s.startRead s.latch.page s.latch.addr s.latch.regGiven s.latch.rdTxid = _
      rw [hl]
      exact startXact_awaiting ..
    | some reg =>
      refine ⟨page, 0x40, (latchOf (.i2cRdb page addr (some reg) txid)).rdTxid, rwPayload c addr reg, 1, true,
        payloadOf_length _ _, by omega, fun s hl hc => ?_⟩
      subst hc
      change s.startRead s.latch.page s.latch.addr s.latch.regGiven s.latch.rdTxid = _
      rw [hl]
      exact startXact_awaiting ..
  | _ => cases h

theorem startOf_i2cWrs {page addr reg : Byte} {b : List Byte} {s : State} (hb : b.length ≤ 257)
    (hl : s.latch = latchOf (.i2cWrs page addr reg b)) :
    startOf (.i2cWrs page addr reg b) s = s.startWriteSeq page addr reg b (writeEnd (.i2cWrs page addr reg b)) := by
  change startI2cWrs s = _
  rw [startI2cWrs, hl, if_neg (by simpa [latchOf, maxWrSeq] using hb)]
  rfl

theorem startOf_psuSend {addr reg : Byte} {b : List Byte} {s : State} (hb : b.length ≤ 257)
    (hl : s.latch = latchOf (.psuSend addr reg b)) :
    startOf (.psuSend addr reg b) s =
      (s.psPhase .send).startWriteSeq s.cfg.psuPage addr reg b (writeEnd (.psuSend addr reg b)) := by
  change startPsuSend s = _
  rw [startPsuSend, hl, if_neg (by simpa [latchOf, maxWrSeq] using hb)]
  rfl

theorem startOf_i2cRds {page addr : Byte} {reg : Option Byte} {c : Half} {s : State} (hc : c.toNat ≤ 255)
    (hl : s.latch = latchOf (.i2cRds page addr reg c)) :
    startOf (.i2cRds page addr reg c) s =
      s.startReadSeq page addr reg c.toNat (readEnd (.i2cRds page addr reg c)) := by
  change startI2cRds s = _
  rw [startI2cRds, regGiven_latch reg s.latch (by rw [hl]; rfl) (by rw [hl]; rfl), hl,
    if_neg (by simpa [latchOf, maxRdSeq] using hc)]
  rfl

theorem psuRecv_bound {addr : Byte} {count : Option Half} (hg : (Instr.psuRecv addr count).badOperand = false) :
    (count.map (·.toNat)).getD 8 ≤ 255 := by
  cases count with
  | none => decide
  | some c => simpa [Instr.badOperand] using hg

theorem startOf_psuRecv {addr : Byte} {count : Option Half} {s : State} (hc : (count.map (·.toNat)).getD 8 ≤ 255)
    (hl : s.latch = latchOf (.psuRecv addr count)) :
    startOf (.psuRecv addr count) s =
      (s.psPhase .recv).startReadSeq s.cfg.psuPage addr none ((count.map (·.toNat)).getD 8)
        (readEnd (.psuRecv addr count)) := by
  change startPsuRecv s = _
  rw [startPsuRecv, replyCount_latch count s.latch (by rw [hl]; rfl) (by rw [hl]; rfl), hl,
    if_neg (by simpa [maxRdSeq] using hc)]
  rfl

/-- The operands of an exchange that passes its checks: the packet fits `PKBUF`, the reply `RPBUF` (R155). -/
theorem exchangeOf_bounds {i : Instr} {opcode : Byte} {fields : List Byte} {c : Nat}
    (he : exchangeOf i = some (opcode, fields, c)) (hg : i.badOperand = false) : fields.length ≤ 251 ∧ c ≤ 255 := by
  cases i with
  | psuCmd opcode fields count =>
    cases he
    simpa [Instr.badOperand] using hg
  | psuGetHwver | psuCfgWdt | psuSetV | psuGetV | psuMeasV =>
    cases he
    exact ⟨by simp, by decide⟩
  | _ => cases he

theorem startOf_exchange {i : Instr} {opcode : Byte} {fields : List Byte} {c : Nat} {s : State}
    (he : exchangeOf i = some (opcode, fields, c)) (hg : i.badOperand = false) (hl : s.latch = latchOf i) :
    startOf i s = startExchange opcode fields s := by
  obtain ⟨hf, hc⟩ := exchangeOf_bounds he hg
  cases i with
  | psuCmd opcode fields count =>
    cases he
    change startPsuCmd s = _
    rw [startPsuCmd, replyCount_latch count s.latch (by rw [hl]; rfl) (by rw [hl]; rfl), hl,
      if_neg (by simp [latchOf, maxPsuPayload, maxRdSeq, hf, hc])]
    rfl
  | psuCfgWdt e =>
    cases he
    change startExchange 0x81 [s.latch.value, 0x00] s = _
    rw [hl]
    rfl
  | psuSetV h =>
    cases he
    change startExchange 0x83 [s.latch.value, 0x00] s = _
    rw [hl]
    rfl
  | psuGetHwver | psuGetV | psuMeasV =>
    cases he
    rfl
  | _ => cases he

/-! ## The statuses a command can end with (R198) -/

theorem ok_mem_statuses {i : Instr} (h : i.channel = .cmd) : .ok ∈ statusesOf (some i) := by
  cases i <;> first | exact of_decide_eq_true rfl | cases h

theorem invalidArgument_mem_statuses {i : Instr} (h : i.badOperand = true) :
    .invalidArgument ∈ statusesOf (some i) := by
  cases i <;> first | exact of_decide_eq_true rfl | cases h

/-- The statuses of a failed transaction (R113). -/
theorem parseResponse_statuses {r : List Byte} {id : Byte} {n : Nat} {e : Status}
    (h : parseResponse r id n = .fail e) : e ∈ [Status.noData, .shortRead, .idMismatch] := by
  rw [parseResponse_eq] at h
  split at h
  · cases h; simp
  · split at h
    · cases h; simp
    · split at h
      · cases h; simp
      · cases h

theorem xactFailure_mem_statuses {i : Instr} (h : i.oneTransaction = true) :
    ∀ e ∈ [Status.noData, .shortRead, .idMismatch], e ∈ statusesOf (some i) := by
  cases i <;> first | exact Bool.noConfusion h | exact of_decide_eq_true rfl

theorem writeFailure_mem_statuses {c : Config} {i : Instr} (h : (writeSeqOf c i).isSome) :
    ∀ e ∈ [Status.noData, .shortRead, .idMismatch], writeFailure i e ∈ statusesOf (some i) := by
  cases i <;> first | exact Bool.noConfusion h | exact of_decide_eq_true rfl

theorem readFailure_mem_statuses {c : Config} {i : Instr} (h : (readSeqOf c i).isSome) :
    ∀ e ∈ [Status.noData, .shortRead, .idMismatch], readFailure i e ∈ statusesOf (some i) := by
  cases i <;> first | exact Bool.noConfusion h | exact of_decide_eq_true rfl

/-- The checks of FC_PARSE fail with a status it can end with (R198). -/
theorem parseFailure_mem_statuses (b : List Byte) (id n : Byte) :
    ∀ e ∈ [Status.noData, .shortRead, .idMismatch], e ∈ statusesOf (some (.fcParse b id n)) :=
  of_decide_eq_true rfl

theorem startOf_fcParse (b : List Byte) (id n : Byte) {s : State} (hl : s.latch = latchOf (.fcParse b id n)) :
    startOf (.fcParse b id n) s =
      if 250 < n.toNat ∨ n.toNat + 3 < b.length then s.fail .invalidArgument
      else s.finishWith .bytes (parseResponse b id n.toNat) := by
  change startFcParse s = _
  rw [startFcParse, hl]
  by_cases hn : 250 < n.toNat
  · rw [if_pos (by exact hn), if_pos (.inl hn)]
  by_cases hb : n.toNat + 3 < b.length
  · rw [if_neg (by exact hn), if_pos (by exact hb), if_pos (.inr hb)]
  · rw [if_neg (by exact hn), if_neg (by exact hb), if_neg (not_or.2 ⟨hn, hb⟩)]
    rfl

theorem startOf_voltEnc (mv : Half) {s : State} (hl : s.latch = latchOf (.voltEnc mv)) :
    startOf (.voltEnc mv) s =
      match voltEncode mv with | some h => s.succeed (.byte h) | none => s.fail .invalidArgument := by
  change startVoltEnc s = _
  rw [startVoltEnc, hl]
  rfl

theorem startOf_awDec (b : List Byte) (k : Option Half) {s : State} (hl : s.latch = latchOf (.awDec b k)) :
    startOf (.awDec b k) s =
      match decodeWords b k with | some w => s.succeed (.words w) | none => s.fail .lengthMismatch := by
  change startAwDec s = _
  rw [startAwDec, hl]
  cases k <;> rfl

/-- The pure commands that store nothing have their result at acceptance, the same from every state with their
record. -/
theorem startOf_storesNothing {i : Instr} (h : i.storesNothing = true) :
    ∃ r : Rsp, r.status ∈ statusesOf (some i) ∧ (r.status = .ok ∨ r.data = .none) ∧
      ∀ s : State, s.latch = latchOf i → startOf i s = s.finish r := by
  have hok : .ok ∈ statusesOf (some i) := ok_mem_statuses (by cases i <;> first | rfl | cases h)
  cases i with
  | fcParse b id n =>
    by_cases hbad : 250 < n.toNat ∨ n.toNat + 3 < b.length
    · exact ⟨⟨.invalidArgument, .none⟩, of_decide_eq_true rfl, .inr rfl, fun s hl => by
        rw [startOf_fcParse b id n hl, if_pos hbad]; rfl⟩
    · cases hq : parseResponse b id n.toNat with
      | ok p => exact ⟨⟨.ok, .bytes p⟩, hok, .inl rfl, fun s hl => by
          rw [startOf_fcParse b id n hl, if_neg hbad, hq]; rfl⟩
      | fail e => exact ⟨⟨e, .none⟩, parseFailure_mem_statuses b id n e (parseResponse_statuses hq), .inr rfl,
          fun s hl => by rw [startOf_fcParse b id n hl, if_neg hbad, hq]; rfl⟩
  | voltEnc mv =>
    cases hv : voltEncode mv with
    | some x => exact ⟨⟨.ok, .byte x⟩, hok, .inl rfl, fun s hl => by rw [startOf_voltEnc mv hl, hv]; rfl⟩
    | none => exact ⟨⟨.invalidArgument, .none⟩, of_decide_eq_true rfl, .inr rfl, fun s hl => by
        rw [startOf_voltEnc mv hl, hv]; rfl⟩
  | voltDec x =>
    refine ⟨⟨.ok, .num (voltDecode x)⟩, hok, .inl rfl, fun s hl => ?_⟩
    change startVoltDec s = _
    rw [startVoltDec, hl]
    rfl
  | awEnc w =>
    refine ⟨⟨.ok, .bytes (encodeWords w)⟩, hok, .inl rfl, fun s hl => ?_⟩
    change startAwEnc s = _
    rw [startAwEnc, hl]
    rfl
  | awDec b k =>
    cases hd : decodeWords b k with
    | some w => exact ⟨⟨.ok, .words w⟩, hok, .inl rfl, fun s hl => by rw [startOf_awDec b k hl, hd]; rfl⟩
    | none => exact ⟨⟨.lengthMismatch, .none⟩, of_decide_eq_true rfl, .inr rfl, fun s hl => by
        rw [startOf_awDec b k hl, hd]; rfl⟩
  | _ => cases h

/-- `TXBUF` and `TXLEN` as FC_BUILD leaves them (R111). -/
def State.loadFrame (frame : List Byte) (s : State) : State :=
  { s with u1 := { s.u1 with txbuf := s.u1.txbuf.writeList 0 frame, txlen := BitVec.ofNat 9 frame.length } }

@[simp] theorem buildFrame_length (page cmd txid : Byte) (payload : List Byte) :
    (buildFrame page cmd txid payload).length = payload.length + 6 := by
  simp [buildFrame]

@[simp] theorem buildPacket_length (opcode : Byte) (fields : List Byte) :
    (buildPacket opcode fields).length = fields.length + 6 := by
  simp [buildPacket]

theorem startOf_fcBuild {page cmd txid : Byte} {payload : List Byte} {s : State}
    (hl : s.latch = latchOf (.fcBuild page cmd txid payload)) (hm : s.u1.txbuf.wf = true) :
    (250 < payload.length ∧ startOf (.fcBuild page cmd txid payload) s = s.fail .invalidArgument) ∨
    (payload.length ≤ 250 ∧ startOf (.fcBuild page cmd txid payload) s =
      (s.loadFrame (buildFrame page cmd txid payload)).succeed (.bytes (buildFrame page cmd txid payload))) := by
  change (_ ∧ startFcBuild s = _) ∨ (_ ∧ startFcBuild s = _)
  by_cases hp : 250 < payload.length
  · exact .inl ⟨hp, by rw [startFcBuild, hl, if_pos (by exact hp)]⟩
  · have hread : (s.u1.txbuf.writeList 0 (buildFrame page cmd txid payload)).readList 0
        (BitVec.ofNat 9 (payload.length + 6)).toNat = buildFrame page cmd txid payload := by
      rw [toNat_ofNat9 _ (by omega), ← buildFrame_length page cmd txid, Memory.readList_writeList _ hm]
    refine .inr ⟨by omega, ?_⟩
    have hgo : startFcBuild s = (s.loadFrame (buildFrame page cmd txid payload)).succeed
        (.bytes ((s.u1.txbuf.writeList 0 (buildFrame page cmd txid payload)).readList 0
          (BitVec.ofNat 9 (payload.length + 6)).toNat)) := by
      rw [startFcBuild, show s.latch.page = page by rw [hl]; rfl, show s.latch.cmd = cmd by rw [hl]; rfl,
        show s.latch.txid = txid by rw [hl]; rfl, show s.latch.bytes = payload by rw [hl]; rfl,
        if_neg (by exact hp), State.loadFrame, buildFrame_length]
      rfl
    rw [hgo, hread]

theorem loadPacket_packet {opcode : Byte} {fields : List Byte} {s : State} (hm : s.u3.pkbuf.wf = true)
    (hf : fields.length ≤ 251) : (s.loadPacket opcode fields).packet = buildPacket opcode fields := by
  change (s.u3.pkbuf.writeList 0 (buildPacket opcode fields)).readList 0 (BitVec.ofNat 9 (fields.length + 6)).toNat = _
  rw [toNat_ofNat9 _ (by omega), ← buildPacket_length opcode, Memory.readList_writeList _ hm]

theorem startOf_psuBuild {opcode : Byte} {fields : List Byte} {s : State}
    (hl : s.latch = latchOf (.psuBuild opcode fields)) (hm : s.u3.pkbuf.wf = true) :
    (251 < fields.length ∧ startOf (.psuBuild opcode fields) s = s.fail .invalidArgument) ∨
    (fields.length ≤ 251 ∧ startOf (.psuBuild opcode fields) s =
      (s.loadPacket opcode fields).succeed (.bytes (buildPacket opcode fields))) := by
  change (_ ∧ startPsuBuild s = _) ∨ (_ ∧ startPsuBuild s = _)
  by_cases hf : 251 < fields.length
  · exact .inl ⟨hf, by rw [startPsuBuild, hl, if_pos (by exact hf)]⟩
  · refine .inr ⟨by omega, ?_⟩
    rw [startPsuBuild, hl, if_neg (by exact hf)]
    rw [← loadPacket_packet hm (by omega)]
    rfl

/-- An exchange begins with the write sequence of its packet (R154). -/
theorem startExchange_eq {opcode : Byte} {fields : List Byte} {s : State} (hm : s.u3.pkbuf.wf = true)
    (hf : fields.length ≤ 251) :
    startExchange opcode fields s = ((s.loadPacket opcode fields).psPhase .send).startWriteSeq s.cfg.psuPage
      s.cfg.psuAddr s.cfg.psuReg (buildPacket opcode fields) (State.psPhase .settle) := by
  rw [← loadPacket_packet hm hf]
  rfl

end Sys2Proof.Machine

namespace Sys2Proof.Machine

/-! ## The bounds of a state, unit by unit -/

/-- A buffer of `n` bytes: canonical, and no listed index outside. -/
def Memory.Fits (n : Nat) (m : Memory) : Prop := m.wf = true ∧ m.within n = true

theorem Memory.Fits.write {n a : Nat} {m : Memory} {v : Byte} (h : m.Fits n) (ha : a < n) : (m.write a v).Fits n :=
  ⟨Memory.wf_write m h.1 a v, Memory.within_write m n a v h.2 ha⟩

theorem Memory.Fits.writeList {n : Nat} {m : Memory} {l : List Byte} (h : m.Fits n) (hl : l.length ≤ n) :
    (m.writeList 0 l).Fits n :=
  ⟨Memory.wf_writeList m h.1 0 l, Memory.within_writeList m n 0 l h.2 (by omega)⟩

/-- The buffers and registers of U1 (R16, R17, R18). -/
structure U1.Sound (u : U1) : Prop where
  txbuf : u.txbuf.Fits 256
  rxbuf : u.rxbuf.Fits 253
  txlen : u.txlen.toNat = 0 ∨ 6 ≤ u.txlen.toNat ∧ u.txlen.toNat ≤ 256
  expLen : u.expLen.toNat ≤ 250
  rxcnt : u.rxcnt.toNat ≤ u.expLen.toNat + 3

/-- The buffer and registers of U2 (R21, R22). -/
structure U2.Sound (u : U2) : Prop where
  buf : u.buf.Fits 257
  idx : u.idx.toNat ≤ u.cnt.toNat
  cnt : u.cnt.toNat ≤ 257

/-- The buffers and registers of U3 (R24, R25). -/
structure U3.Sound (u : U3) : Prop where
  pkbuf : u.pkbuf.Fits 257
  rpbuf : u.rpbuf.Fits 255
  pklen : u.pklen.toNat = 0 ∨ 6 ≤ u.pklen.toNat ∧ u.pklen.toNat ≤ 257

/-- The invariant without its control part and the frame in `TXBUF`. -/
structure State.Sound (s : State) : Prop where
  u1 : s.u1.Sound
  u2 : s.u2.Sound
  u3 : s.u3.Sound
  status : s.status.toNat ≤ 7

theorem State.Inv.sound {s : State} (h : s.Inv) : s.Sound := by
  have hb := h.buffers
  have hl := h.lengths
  simp only [State.buffersOk, State.lengthsOk, Bool.and_eq_true, decide_eq_true_eq, and_assoc] at hb hl
  obtain ⟨t1, t2, r1, r2, q1, q2, p1, p2, y1, y2⟩ := hb
  obtain ⟨htx, hexp, hrx, hidx, hcnt, hpk⟩ := hl
  exact ⟨⟨⟨t1, t2⟩, ⟨r1, r2⟩, htx, hexp, hrx⟩, ⟨⟨q1, q2⟩, hidx, hcnt⟩, ⟨⟨p1, p2⟩, ⟨y1, y2⟩, hpk⟩, h.status⟩

theorem State.Sound.inv {s : State} (h : s.Sound) (hc : s.controlOk = true) (hf : s.frameOk = true) : s.Inv := by
  obtain ⟨⟨⟨t1, t2⟩, ⟨r1, r2⟩, htx, hexp, hrx⟩, ⟨⟨q1, q2⟩, hidx, hcnt⟩, ⟨⟨p1, p2⟩, ⟨y1, y2⟩, hpk⟩, hst⟩ := h
  refine ⟨?_, ?_, hc, hf, hst⟩
  · simp only [State.buffersOk, Bool.and_eq_true, and_assoc]
    exact ⟨t1, t2, r1, r2, q1, q2, p1, p2, y1, y2⟩
  · simp only [State.lengthsOk, Bool.and_eq_true, decide_eq_true_eq, and_assoc]
    exact ⟨htx, hexp, hrx, hidx, hcnt, hpk⟩

/-! ### What the operations keep -/

theorem State.Sound.finish {s : State} (h : s.Sound) (r : Rsp) : (s.finish r).Sound :=
  ⟨⟨h.u1.1, h.u1.2, h.u1.3, h.u1.4, h.u1.5⟩, ⟨h.u2.1, h.u2.2, h.u2.3⟩, ⟨h.u3.1, h.u3.2, h.u3.3⟩, h.status⟩

theorem State.Sound.psPhase {s : State} (h : s.Sound) (p : PsPhase) : (s.psPhase p).Sound :=
  ⟨h.u1, h.u2, ⟨h.u3.1, h.u3.2, h.u3.3⟩, h.status⟩

theorem U1.Sound.phase {u : U1} (h : u.Sound) (p : FcPhase) : { u with phase := p }.Sound :=
  ⟨h.1, h.2, h.3, h.4, h.5⟩

theorem State.Sound.loadFrame {s : State} (h : s.Sound) {page cmd txid : Byte} {payload : List Byte}
    (hp : payload.length ≤ 250) : (s.loadFrame (buildFrame page cmd txid payload)).Sound := by
  refine ⟨⟨h.u1.txbuf.writeList (by simp; omega), h.u1.rxbuf, ?_, h.u1.expLen, h.u1.rxcnt⟩, h.u2, h.u3, h.status⟩
  change (BitVec.ofNat 9 _).toNat = 0 ∨ 6 ≤ (BitVec.ofNat 9 _).toNat ∧ (BitVec.ofNat 9 _).toNat ≤ 256
  rw [buildFrame_length, toNat_ofNat9 _ (by omega)]
  omega

theorem State.Sound.loadPacket {s : State} (h : s.Sound) {opcode : Byte} {fields : List Byte}
    (hf : fields.length ≤ 251) : (s.loadPacket opcode fields).Sound := by
  refine ⟨h.u1, h.u2, ⟨h.u3.pkbuf.writeList (by simp; omega), h.u3.rpbuf, ?_⟩, h.status⟩
  change (BitVec.ofNat 9 _).toNat = 0 ∨ 6 ≤ (BitVec.ofNat 9 _).toNat ∧ (BitVec.ofNat 9 _).toNat ≤ 257
  rw [toNat_ofNat9 _ (by omega)]
  omega

theorem State.Sound.loadReply {s : State} (h : s.Sound) {b : List Byte} (hb : b.length ≤ 255) :
    (s.loadReply b).Sound :=
  ⟨h.u1, h.u2, ⟨h.u3.pkbuf, h.u3.rpbuf.writeList hb, h.u3.pklen⟩, h.status⟩

/-- A frame is what a transaction is started with: 6 to 256 bytes, with the transaction id at offset 2. -/
theorem isFrame_length {id : Byte} {f : List Byte} (h : isFrame id f = true) : 6 ≤ f.length ∧ f.length ≤ 256 := by
  simp only [isFrame, Bool.and_eq_true, decide_eq_true_eq, and_assoc] at h
  exact ⟨h.1, h.2.1⟩

theorem isFrame_buildFrame {page cmd txid : Byte} {payload : List Byte} (hp : payload.length ≤ 250) :
    isFrame txid (buildFrame page cmd txid payload) = true := by
  have h0 : (BitVec.ofNat 8 (payload.length + 4)).toNat = payload.length + 4 := toNat_ofNat8 _ (by omega)
  simp [isFrame, buildFrame, h0]
  omega

theorem isFrame_writeFrame (c : Config) (page addr reg v : Byte) :
    isFrame 0xBC (writeFrame c page addr reg v) = true := isFrame_buildFrame (payloadOf_length _ _)

theorem isFrame_readFrame (c : Config) (page addr : Byte) (reg : Option Byte) :
    isFrame 0xAB (readFrame c page addr reg) = true := by
  cases reg <;> exact isFrame_buildFrame (payloadOf_length _ _)

/-! ### Acceptance, in one statement -/

theorem writeSeqOf_exchange {c : Config} {i : Instr} (h : (exchangeOf i).isSome) : (writeSeqOf c i).isSome := by
  cases i <;> first | exact Bool.noConfusion h | rfl

theorem readSeqOf_exchange {c : Config} {i : Instr} (h : (exchangeOf i).isSome) : (readSeqOf c i).isSome := by
  cases i <;> first | exact Bool.noConfusion h | rfl

theorem writeEnd_exchange {i : Instr} (h : (exchangeOf i).isSome) : writeEnd i = State.psPhase .settle := if_pos h

/-- What a command that makes calls does at acceptance, the same from every state with its record: it starts its
transaction, its write sequence, its read sequence or its exchange. -/
theorem startOf_good {i : Instr} (hc : i.calls = true) (hg : i.badOperand = false) (c : Config) :
    (i.oneTransaction = true ∧ ∃ flush frame txid n, isFrame txid frame = true ∧ n ≤ 250 ∧
      ∀ s : State, s.latch = latchOf i → s.cfg = c → startOf i s = s.awaiting flush frame txid n) ∨
    ((writeSeqOf c i).isSome ∧ exchangeOf i = none ∧ ∃ page addr reg b, b.length ≤ 257 ∧
      ∀ s : State, s.latch = latchOf i → s.cfg = c → startOf i s =
        (s.psPhase (if i.sequence then s.u3.phase else .send)).startWriteSeq page addr reg b (writeEnd i)) ∨
    ((readSeqOf c i).isSome ∧ exchangeOf i = none ∧ ∃ page addr reg n, n ≤ 255 ∧
      ∀ s : State, s.latch = latchOf i → s.cfg = c → startOf i s =
        (s.psPhase (if i.sequence then s.u3.phase else .recv)).startReadSeq page addr reg n (readEnd i)) ∨
    ((exchangeOf i).isSome ∧ ∃ opcode fields, fields.length ≤ 251 ∧
      ∀ s : State, s.latch = latchOf i → startOf i s = startExchange opcode fields s) := by
  cases i with
  | fcXact | i2cWrb | i2cRdb =>
    obtain ⟨page, cmd, txid, payload, n, flush, hp, hn, hstart⟩ := startOf_oneTransaction rfl hg c
    exact .inl ⟨rfl, flush, _, txid, n, isFrame_buildFrame hp, hn, hstart⟩
  | i2cWrs page addr reg b =>
    have hb : b.length ≤ 257 := by simpa [Instr.badOperand] using hg
    exact .inr (.inl ⟨rfl, rfl, page, addr, reg, b, hb, fun s hl _ => startOf_i2cWrs hb hl⟩)
  | psuSend addr reg b =>
    have hb : b.length ≤ 257 := by simpa [Instr.badOperand] using hg
    exact .inr (.inl ⟨rfl, rfl, c.psuPage, addr, reg, b, hb, fun s hl hcfg => hcfg ▸ startOf_psuSend hb hl⟩)
  | i2cRds page addr reg count =>
    have hn : count.toNat ≤ 255 := by simpa [Instr.badOperand] using hg
    exact .inr (.inr (.inl ⟨rfl, rfl, page, addr, reg, _, hn, fun s hl _ => startOf_i2cRds hn hl⟩))
  | psuRecv addr count =>
    have hn := psuRecv_bound hg
    exact .inr (.inr (.inl ⟨rfl, rfl, c.psuPage, addr, none, _, hn, fun s hl hcfg => hcfg ▸ startOf_psuRecv hn hl⟩))
  | psuCmd | psuGetHwver | psuCfgWdt | psuSetV | psuGetV | psuMeasV =>
    exact .inr (.inr (.inr ⟨rfl, _, _, (exchangeOf_bounds rfl hg).1, fun s hl => startOf_exchange rfl hg hl⟩))
  | _ => cases hc

theorem State.Sound.awaiting {s : State} (h : s.Sound) {flush : Bool} {frame : List Byte} {txid : Byte} {n : Nat}
    (hf : isFrame txid frame = true) (hn : n ≤ 250) : (s.awaiting flush frame txid n).Sound := by
  have hlen := isFrame_length hf
  refine ⟨⟨h.u1.txbuf.writeList hlen.2, h.u1.rxbuf, ?_, ?_, Nat.zero_le _⟩, h.u2, h.u3, h.status⟩
  · change (BitVec.ofNat 9 _).toNat = 0 ∨ 6 ≤ (BitVec.ofNat 9 _).toNat ∧ (BitVec.ofNat 9 _).toNat ≤ 256
    rw [toNat_ofNat9 _ (by omega)]
    omega
  · change (BitVec.ofNat 8 n).toNat ≤ 250
    rwa [toNat_ofNat8 _ (by omega)]

theorem State.Sound.recvStep {s : State} (h : s.Sound) : s.recvStep.Sound := by
  have hr : (s.rxBytes s.rxExpected).length ≤ s.u1.expLen.toNat + 3 := List.length_take_le _ _
  have he := h.u1.expLen
  refine ⟨⟨h.u1.txbuf, h.u1.rxbuf.writeList (by omega), h.u1.txlen, he, ?_⟩, h.u2, h.u3, h.status⟩
  change (BitVec.ofNat 8 _).toNat ≤ _
  rwa [toNat_ofNat8 _ (by omega)]

/-! ## The phases of a running command -/

/-- `PS_PHASE` while the command's write sequence runs (R23). -/
def sendPhase (i : Instr) : PsPhase := if i.sequence then .idle else .send

/-- `PS_PHASE` while the command's read sequence runs (R23). -/
def recvPhase (i : Instr) : PsPhase := if i.sequence then .idle else .recv

theorem inXact_iff {sq : SqPhase} {ps : PsPhase} {s : State} :
    s.inXact sq ps = true ↔ s.u1.phase ≠ .idle ∧ s.u2.phase = sq ∧ s.u3.phase = ps ∧
      (sq = .idle ∨ s.u2.idx.toNat < s.u2.cnt.toNat) ∧ (sq ≠ .rd ∨ s.u2.cnt.toNat ≤ 255) := by
  simp only [State.inXact, Bool.and_eq_true, Bool.or_eq_true, decide_eq_true_eq, and_assoc]

theorem settling_iff {s : State} :
    s.settling = true ↔ s.u1.phase = .idle ∧ s.u2.phase = .idle ∧ s.u3.phase = .settle := by
  simp only [State.settling, Bool.and_eq_true, decide_eq_true_eq, and_assoc]

theorem unitsIdle_iff {s : State} :
    s.unitsIdle = true ↔ s.u1.phase = .idle ∧ s.u2.phase = .idle ∧ s.u3.phase = .idle := by
  simp only [State.unitsIdle, Bool.and_eq_true, decide_eq_true_eq, and_assoc]

theorem phasesOf_oneTransaction {i : Instr} (h : i.oneTransaction = true) (s : State) :
    phasesOf (some i) s = s.inXact .idle .idle := by
  cases i <;> first | exact Bool.noConfusion h | rfl

theorem phasesOf_exchange {i : Instr} (h : (exchangeOf i).isSome) (s : State) :
    phasesOf (some i) s = s.inExchange := by
  cases i <;> first | exact Bool.noConfusion h | rfl

theorem sequence_of_exchange {i : Instr} (h : (exchangeOf i).isSome) : i.sequence = false := by
  cases i <;> first | exact Bool.noConfusion h | rfl

theorem sendPhase_exchange {i : Instr} (h : (exchangeOf i).isSome) : sendPhase i = .send := by
  rw [sendPhase, sequence_of_exchange h]
  rfl

theorem recvPhase_exchange {i : Instr} (h : (exchangeOf i).isSome) : recvPhase i = .recv := by
  rw [recvPhase, sequence_of_exchange h]
  rfl

theorem phasesOf_write {c : Config} {i : Instr} (h : (writeSeqOf c i).isSome) {s : State}
    (hs : s.inXact .wr (sendPhase i) = true) : phasesOf (some i) s = true := by
  by_cases he : (exchangeOf i).isSome
  · rw [sendPhase_exchange he] at hs
    rw [phasesOf_exchange he, State.inExchange, hs]
    rfl
  · cases i <;> first | exact Bool.noConfusion h | exact hs | exact absurd rfl he

theorem phasesOf_read {c : Config} {i : Instr} (h : (readSeqOf c i).isSome) {s : State}
    (hs : s.inXact .rd (recvPhase i) = true) : phasesOf (some i) s = true := by
  by_cases he : (exchangeOf i).isSome
  · rw [recvPhase_exchange he] at hs
    rw [phasesOf_exchange he, State.inExchange, hs, Bool.or_true]
  · cases i <;> first | exact Bool.noConfusion h | exact hs | exact absurd rfl he

/-- Where a running command can be: in its one transaction, in its write sequence, in its read sequence, or before the
settle delay. -/
theorem phasesOf_cases {i : Instr} {s : State} (c : Config) (h : phasesOf (some i) s = true) :
    (i.oneTransaction = true ∧ s.inXact .idle .idle = true) ∨
    ((writeSeqOf c i).isSome ∧ s.inXact .wr (sendPhase i) = true) ∨
    ((readSeqOf c i).isSome ∧ s.inXact .rd (recvPhase i) = true) ∨
    ((exchangeOf i).isSome ∧ s.settling = true) := by
  by_cases he : (exchangeOf i).isSome
  · rw [phasesOf_exchange he, State.inExchange, Bool.or_eq_true, Bool.or_eq_true] at h
    rw [sendPhase_exchange he, recvPhase_exchange he]
    rcases h with (h | h) | h
    · exact .inr (.inl ⟨writeSeqOf_exchange he, h⟩)
    · exact .inr (.inr (.inr ⟨he, h⟩))
    · exact .inr (.inr (.inl ⟨readSeqOf_exchange he, h⟩))
  · cases i with
    | fcXact | i2cWrb | i2cRdb => exact .inl ⟨rfl, h⟩
    | i2cWrs | psuSend => exact .inr (.inl ⟨rfl, h⟩)
    | i2cRds | psuRecv => exact .inr (.inr (.inl ⟨rfl, h⟩))
    | _ => first | exact absurd rfl he | exact Bool.noConfusion h

/-! ## The ends of a step, each of which meets the invariant -/

theorem State.frameOk_of_phase {s : State} (h : s.u1.phase = .idle ∨ s.u1.phase = .recv) : s.frameOk = true := by
  rcases h with h | h <;> simp [State.frameOk, h]

theorem resultOk_iff {i : Instr} {r : Rsp} {s : State} (hl : s.latch.instr = some i) :
    s.resultOk r = true ↔ r.status ∈ statusesOf (some i) ∧ (r.status = .ok ∨ r.data = .none) := by
  simp only [State.resultOk, hl, Bool.and_eq_true, Bool.or_eq_true, decide_eq_true_eq]

/-- The command is over. -/
theorem inv_finish {s : State} {r : Rsp} (h : s.Sound) (hb : s.busy = true) (hh : s.hung = false)
    (hr : s.resultOk r = true) : (s.finish r).Inv := by
  refine h.finish r |>.inv ?_ (State.frameOk_of_phase (.inl rfl))
  have hu : (s.finish r).unitsIdle = true := rfl
  have hr' : (s.finish r).resultOk r = true := hr
  simp [State.controlOk, hb, hh, hu, hr']

theorem inv_succeed {i : Instr} {s : State} (d : Data) (h : s.Sound) (hrun : s.runs i) (hi : i.channel = .cmd) :
    (s.succeed d).Inv := by
  obtain ⟨hb, hl, hh, _⟩ := hrun
  exact inv_finish h hb hh ((resultOk_iff hl).2 ⟨ok_mem_statuses hi, .inl rfl⟩)

theorem inv_fail {i : Instr} {s : State} {e : Status} (h : s.Sound) (hrun : s.runs i)
    (he : e ∈ statusesOf (some i)) : (s.fail e).Inv := by
  obtain ⟨hb, hl, hh, _⟩ := hrun
  exact inv_finish h hb hh ((resultOk_iff hl).2 ⟨he, .inr rfl⟩)

/-- The command goes on. -/
theorem inv_calling {i : Instr} {s : State} (h : s.Sound) (hb : s.busy = true) (hl : s.latch.instr = some i)
    (hd : s.done = none) (hg : i.badOperand = false) (hp : phasesOf (some i) s = true) (hf : s.frameOk = true) :
    s.Inv := by
  refine h.inv ?_ hf
  simp [State.controlOk, State.operandsOk, hb, hd, hl, hp, hg]

/-- A transaction is about to begin. -/
theorem inv_awaiting {i : Instr} {s : State} {flush : Bool} {frame : List Byte} {txid : Byte} {n : Nat}
    (h : s.Sound) (hrun : s.runs i) (hg : i.badOperand = false) (hf : isFrame txid frame = true) (hn : n ≤ 250)
    (hp : phasesOf (some i) (s.awaiting flush frame txid n) = true) : (s.awaiting flush frame txid n).Inv := by
  obtain ⟨hb, hl, _, hd⟩ := hrun
  refine inv_calling (h.awaiting hf hn) hb hl hd hg hp ?_
  have hlen := isFrame_length hf
  have htx : (s.awaiting flush frame txid n).txFrame = frame := by
    change (s.u1.txbuf.writeList 0 frame).readList 0 (BitVec.ofNat 9 frame.length).toNat = frame
    rw [toNat_ofNat9 _ (by omega), Memory.readList_writeList _ h.u1.txbuf.1]
  rw [State.frameOk, htx, show (s.awaiting flush frame txid n).u1.expTxid = txid from rfl, hf, Bool.or_true]

theorem inXact_awaiting {s : State} {flush : Bool} {frame : List Byte} {txid : Byte} {n : Nat} {sq : SqPhase}
    {ps : PsPhase} (h2 : s.u2.phase = sq) (h3 : s.u3.phase = ps) (hi : sq = .idle ∨ s.u2.idx.toNat < s.u2.cnt.toNat)
    (hc : sq ≠ .rd ∨ s.u2.cnt.toNat ≤ 255) : (s.awaiting flush frame txid n).inXact sq ps = true := by
  refine inXact_iff.2 ⟨?_, h2, h3, hi, hc⟩
  change (if flush then FcPhase.flush else .send) ≠ .idle
  cases flush <;> simp

/-! ### Sequences -/

theorem writeSeqOf_channel {c : Config} {i : Instr} (h : (writeSeqOf c i).isSome) : i.channel = .cmd :=
  let ⟨_, h⟩ := Option.isSome_iff_exists.1 h
  calls_channel i (writeSeqOf_calls h)

theorem readSeqOf_channel {c : Config} {i : Instr} (h : (readSeqOf c i).isSome) : i.channel = .cmd :=
  let ⟨_, h⟩ := Option.isSome_iff_exists.1 h
  calls_channel i (readSeqOf_calls h)

theorem readSeqOf_kind {c : Config} {i : Instr} (h : (readSeqOf c i).isSome) :
    i.sequence = true ∨ i.psuCalls = true := by
  cases i <;> first | exact Bool.noConfusion h | exact .inl rfl | exact .inr rfl

theorem State.Sound.withU2 {s : State} (h : s.Sound) {u : U2} (hu : u.Sound) : State.Sound { s with u2 := u } :=
  ⟨h.u1, hu, h.u3, h.status⟩

theorem inv_readEnd {i : Instr} {s : State} {c : Config} {b : List Byte} (h : s.Sound) (hrun : s.runs i)
    (hr : (readSeqOf c i).isSome) (hb : b.length ≤ 255) : (readEnd i b s).Inv := by
  rcases readSeqOf_kind hr with hs | hs
  · rw [readEnd_sequence hs]
    exact inv_succeed _ h hrun (readSeqOf_channel hr)
  · rw [readEnd_psu hs, endReply_withResult _ _ _ h.u3.rpbuf.1 hb]
    exact inv_succeed (s := s.loadReply b) _ (h.loadReply hb) hrun (readSeqOf_channel hr)

section Sequences

variable {i : Instr} {s : State} {c : Config} (h : s.Sound) (hrun : s.runs i) (hg : i.badOperand = false)
include h hrun hg

theorem inv_writeEnd (hw : (writeSeqOf c i).isSome) (h1 : s.u1.phase = .idle) (h2 : s.u2.phase = .idle) :
    (writeEnd i s).Inv := by
  unfold writeEnd
  split
  · next he =>
    obtain ⟨hb, hl, _, hd⟩ := hrun
    refine inv_calling (h.psPhase .settle) hb hl hd hg ?_ (State.frameOk_of_phase (.inl h1))
    have hs : (s.psPhase .settle).settling = true := settling_iff.2 ⟨h1, h2, rfl⟩
    rw [phasesOf_exchange he, State.inExchange, hs, Bool.or_true, Bool.true_or]
  · exact inv_succeed _ h hrun (writeSeqOf_channel hw)

theorem inv_startWriteSeq (hw : (writeSeqOf c i).isSome) (h1 : s.u1.phase = .idle) (h3 : s.u3.phase = sendPhase i)
    {b : List Byte} (hb : b.length ≤ 257) (page addr reg : Byte) :
    (s.startWriteSeq page addr reg b (writeEnd i)).Inv := by
  cases b with
  | nil =>
    rw [startWriteSeq_nil]
    exact inv_writeEnd (h.withU2 ⟨h.u2.buf, Nat.le_refl 0, Nat.zero_le _⟩) hrun hg hw h1 rfl
  | cons v l =>
    have hcnt : (BitVec.ofNat 9 (v :: l).length).toNat = (v :: l).length := toNat_ofNat9 _ (by omega)
    rw [startWriteSeq_cons _ _ _ _ _ _ _ h.u2.buf.1 hb]
    refine inv_awaiting (h.withU2 ⟨h.u2.buf.writeList hb, Nat.zero_le _, ?_⟩) hrun hg
      (isFrame_writeFrame ..) (by decide) (phasesOf_write hw (inXact_awaiting rfl h3 (.inr ?_) (.inl (by decide))))
    · rwa [hcnt]
    · rw [hcnt]
      exact Nat.succ_pos _

theorem inv_afterWriteElem (hw : (writeSeqOf c i).isSome) (h1 : s.u1.phase = .idle) (h2 : s.u2.phase = .wr)
    (h3 : s.u3.phase = sendPhase i) (hlt : s.u2.idx.toNat < s.u2.cnt.toNat) {q : XactResult}
    (hq : ∀ e, q = .fail e → e ∈ [Status.noData, .shortRead, .idMismatch]) (page addr reg : Byte) :
    (s.afterWriteElem page addr reg (writeEnd i) (fun e t => t.fail (writeFailure i e)) q).Inv := by
  have hcnt := h.u2.cnt
  have hidx : (s.u2.idx + 1).toNat = s.u2.idx.toNat + 1 := idx_succ hlt hcnt
  cases q with
  | fail e =>
    rw [afterWriteElem_fail]
    exact inv_fail (h.withU2 ⟨h.u2.buf, h.u2.idx, hcnt⟩) hrun (writeFailure_mem_statuses hw e (hq e rfl))
  | ok p =>
    have hu2 : U2.Sound { s.u2 with idx := s.u2.idx + 1 } := ⟨h.u2.buf, hidx ▸ hlt, hcnt⟩
    rcases Nat.lt_or_eq_of_le hlt with hmore | hlast
    · rw [afterWriteElem_more _ _ _ _ _ _ _ hmore hcnt]
      refine inv_awaiting (h.withU2 hu2) hrun hg (isFrame_writeFrame ..) (by decide)
        (phasesOf_write hw (inXact_awaiting h2 h3 (.inr ?_) (.inl (by decide))))
      rwa [hidx]
    · rw [afterWriteElem_last _ _ _ _ _ _ _ hlast hcnt]
      exact inv_writeEnd (h.withU2 ⟨hu2.buf, hu2.idx, hu2.cnt⟩) hrun hg hw h1 rfl

theorem inv_startReadSeq (hr : (readSeqOf c i).isSome) (h3 : s.u3.phase = recvPhase i) {n : Nat} (hn : n ≤ 255)
    (page addr : Byte) (reg : Option Byte) : (s.startReadSeq page addr reg n (readEnd i)).Inv := by
  rcases Nat.eq_zero_or_pos n with rfl | hpos
  · rw [startReadSeq_zero]
    exact inv_readEnd (h.withU2 ⟨h.u2.buf, Nat.le_refl 0, Nat.zero_le _⟩) hrun hr (Nat.zero_le _)
  · have hcnt : (BitVec.ofNat 9 n).toNat = n := toNat_ofNat9 _ (by omega)
    rw [startReadSeq_pos _ _ _ _ _ _ hpos hn]
    refine inv_awaiting (h.withU2 ⟨h.u2.buf, Nat.zero_le _, ?_⟩) hrun hg (isFrame_readFrame ..) (by decide)
      (phasesOf_read hr (inXact_awaiting rfl h3 (.inr ?_) (.inr ?_)))
    · rw [hcnt]; omega
    · rwa [hcnt]
    · rwa [hcnt]

theorem inv_afterReadElem (hr : (readSeqOf c i).isSome) (h2 : s.u2.phase = .rd) (h3 : s.u3.phase = recvPhase i)
    (hlt : s.u2.idx.toNat < s.u2.cnt.toNat) (hc : s.u2.cnt.toNat ≤ 255) {q : XactResult}
    (hq : ∀ e, q = .fail e → e ∈ [Status.noData, .shortRead, .idMismatch]) (page addr : Byte) (reg : Option Byte) :
    (s.afterReadElem page addr reg (readEnd i) (fun e t => t.fail (readFailure i e)) q).Inv := by
  have hidx : (s.u2.idx + 1).toNat = s.u2.idx.toNat + 1 := idx_succ hlt h.u2.cnt
  cases q with
  | fail e =>
    rw [afterReadElem_fail]
    exact inv_fail (h.withU2 ⟨h.u2.buf, h.u2.idx, h.u2.cnt⟩) hrun (readFailure_mem_statuses hr e (hq e rfl))
  | ok p =>
    have hbuf : (s.u2.buf.write s.u2.idx.toNat (p.getD 0 0)).Fits 257 := h.u2.buf.write (by omega)
    rcases Nat.lt_or_eq_of_le hlt with hmore | hlast
    · rw [afterReadElem_more _ _ _ _ _ _ _ hmore hc]
      refine inv_awaiting (h.withU2 ⟨hbuf, hidx ▸ hlt, h.u2.cnt⟩) hrun hg (isFrame_readFrame ..) (by decide)
        (phasesOf_read hr (inXact_awaiting h2 h3 (.inr ?_) (.inr hc)))
      rwa [hidx]
    · rw [afterReadElem_last _ _ _ _ _ _ _ hlast hc]
      exact inv_readEnd (h.withU2 ⟨hbuf, hidx ▸ hlt, h.u2.cnt⟩) hrun hr (by rwa [Memory.length_readList])

end Sequences

/-! ### Acceptance -/

theorem inv_startOf_calls {i : Instr} {s : State} (h : s.Sound) (hrun : s.runs i) (hc : i.calls = true)
    (hidle : s.unitsIdle = true) (hl : s.latch = latchOf i) : (startOf i s).Inv := by
  obtain ⟨h1, h2, h3⟩ := unitsIdle_iff.1 hidle
  cases hg : i.badOperand with
  | true =>
    rw [startOf_bad hc hg hl]
    exact inv_fail h hrun (invalidArgument_mem_statuses hg)
  | false =>
    rcases startOf_good hc hg s.cfg with ⟨ho, _, _, _, _, hf, hn, e⟩ | ⟨hw, _, page, addr, reg, b, hb, e⟩ |
      ⟨hr, _, page, addr, reg, n, hn, e⟩ | ⟨he, opcode, fields, hf, e⟩
    · rw [e s hl rfl]
      refine inv_awaiting h hrun hg hf hn ?_
      rw [phasesOf_oneTransaction ho]
      exact inXact_awaiting h2 h3 (.inl rfl) (.inl (by decide))
    · rw [e s hl rfl, h3]
      exact inv_startWriteSeq (h.psPhase (sendPhase i)) hrun hg hw h1 rfl hb ..
    · rw [e s hl rfl, h3]
      exact inv_startReadSeq (h.psPhase (recvPhase i)) hrun hg hr rfl hn ..
    · rw [e s hl, startExchange_eq h.u3.pkbuf.1 hf, ← writeEnd_exchange he]
      exact inv_startWriteSeq ((h.loadPacket hf).psPhase .send) hrun hg (writeSeqOf_exchange (c := s.cfg) he) h1
        (sendPhase_exchange he).symm (by rw [buildPacket_length]; omega) ..

/-- Up to its first call, an accepted command meets the invariant. -/
theorem inv_startOf {i : Instr} {s : State} (h : s.Sound) (hrun : s.runs i) (hi : i.channel = .cmd)
    (hidle : s.unitsIdle = true) (hl : s.latch = latchOf i) : (startOf i s).Inv := by
  by_cases hc : i.calls = true
  · exact inv_startOf_calls h hrun hc hidle hl
  by_cases hs : i.storesNothing = true
  · obtain ⟨r, hr, hd, hstart⟩ := startOf_storesNothing hs
    obtain ⟨hb, hli, hh, _⟩ := hrun
    rw [hstart s hl]
    exact inv_finish h hb hh ((resultOk_iff hli).2 ⟨hr, hd⟩)
  cases i with
  | fcBuild page cmd txid payload =>
    rcases startOf_fcBuild hl h.u1.txbuf.1 with ⟨_, e⟩ | ⟨hp, e⟩ <;> rw [e]
    · exact inv_fail h hrun (of_decide_eq_true rfl)
    · exact inv_succeed _ (h.loadFrame hp) hrun hi
  | psuBuild opcode fields =>
    rcases startOf_psuBuild hl h.u3.pkbuf.1 with ⟨_, e⟩ | ⟨hf, e⟩ <;> rw [e]
    · exact inv_fail h hrun (of_decide_eq_true rfl)
    · exact inv_succeed _ (h.loadPacket hf) hrun hi
  | _ => first | exact absurd rfl hc | exact absurd rfl hs | cases hi

end Sys2Proof.Machine

namespace Sys2Proof.Machine

/-! ## A running command -/

/-- A command runs in the phases of the invariant, and it has passed its operand checks. -/
theorem inv_running {i : Instr} {s : State} (h : s.Inv) (hb : s.busy = true) (hd : s.done = none)
    (hl : s.latch.instr = some i) : phasesOf (some i) s = true ∧ i.badOperand = false := by
  have hc := h.control
  simpa [State.controlOk, State.operandsOk, hb, hd, hl] using hc

theorem inBounds_of_inv {i : Instr} {s : State} (h : s.Inv) (hb : s.busy = true) (hd : s.done = none)
    (hl : s.latch.instr = some i) : s.inBounds = true := by
  obtain ⟨hp, _⟩ := inv_running h hb hd hl
  have htx : s.u1.txlen.toNat ≤ 256 := by
    have := h.sound.u1.txlen
    omega
  have hexp : s.u1.expLen.toNat ≤ maxRspPayload := h.sound.u1.expLen
  have hcnt : s.u2.cnt.toNat ≤ maxWrSeq := h.sound.u2.cnt
  rcases phasesOf_cases s.cfg hp with ⟨_, hx⟩ | ⟨_, hx⟩ | ⟨_, hx⟩ | ⟨_, hx⟩
  · obtain ⟨_, h2, _⟩ := inXact_iff.1 hx
    simp [State.inBounds, htx, hexp, h2]
  · obtain ⟨_, h2, _, hlt, _⟩ := inXact_iff.1 hx
    have hlt := hlt.resolve_left (by decide)
    simp [State.inBounds, htx, hexp, h2, hlt, hcnt]
  · obtain ⟨_, h2, _, hlt, hc⟩ := inXact_iff.1 hx
    have hlt := hlt.resolve_left (by decide)
    have hc : s.u2.cnt.toNat ≤ maxRdSeq := hc.resolve_left (fun hne => hne rfl)
    simp [State.inBounds, htx, hexp, h2, hlt, hc]
  · obtain ⟨_, h2, _⟩ := settling_iff.1 hx
    simp [State.inBounds, htx, hexp, h2]

/-- A transaction goes from one phase to the next. -/
theorem phasesOf_of_phase {i : Instr} {s t : State} (h : phasesOf (some i) s = true) (h1 : s.u1.phase ≠ .idle)
    (ht : t.u1.phase ≠ .idle) (h2 : t.u2 = s.u2) (h3 : t.u3 = s.u3) : phasesOf (some i) t = true := by
  have carry : ∀ sq ps, s.inXact sq ps = true → t.inXact sq ps = true := fun sq ps hx => by
    rw [inXact_iff] at hx ⊢
    rw [h2, h3]
    exact ⟨ht, hx.2⟩
  rcases phasesOf_cases s.cfg h with ⟨ho, hx⟩ | ⟨hw, hx⟩ | ⟨hr, hx⟩ | ⟨_, hx⟩
  · rw [phasesOf_oneTransaction ho]
    exact carry _ _ hx
  · exact phasesOf_write hw (carry _ _ hx)
  · exact phasesOf_read hr (carry _ _ hx)
  · exact absurd (settling_iff.1 hx).1 h1

/-- The phases of a command are those of the three units. -/
theorem phasesOf_congr (o : Option Instr) {s t : State} (h1 : t.u1 = s.u1) (h2 : t.u2 = s.u2) (h3 : t.u3 = s.u3) :
    phasesOf o t = phasesOf o s := by
  cases s
  cases t
  cases h1
  cases h2
  cases h3
  cases o with
  | none => rfl
  | some i => cases i <;> rfl

/-- What stands outside the block is no part of the invariant. -/
theorem inv_withWorld {s : State} (h : s.Inv) (w : World) : State.Inv { s with world := w } := by
  refine ⟨h.buffers, h.lengths, ?_, h.frame, h.status⟩
  have hc := h.control
  unfold State.controlOk at hc ⊢
  rw [phasesOf_congr (t := { s with world := w }) (s := s) _ rfl rfl rfl]
  exact hc

section Transport

variable {i : Instr} {s : State} (h : s.Inv) (hrun : s.runs i)
include h hrun

/-- A call that never returns (R207). -/
theorem inv_hang : s.hang.Inv := by
  obtain ⟨hb, hl, _, hd⟩ := hrun
  obtain ⟨hph, hg⟩ := inv_running h hb hd hl
  refine ⟨h.buffers, h.lengths, ?_, h.frame, h.status⟩
  have hph' : phasesOf (some i) s.hang = true :=
    (phasesOf_congr (t := s.hang) (s := s) _ rfl rfl rfl).trans hph
  simp [State.controlOk, State.operandsOk, hb, hd, hl, hph', hg]

variable (a : List Byte)

/-- The flush and the write of a transaction. -/
theorem inv_flushStep (hp : s.u1.phase = .flush) : (s.answered a).flushStep.Inv := by
  obtain ⟨hb, hl, _, hd⟩ := hrun
  obtain ⟨hph, hg⟩ := inv_running h hb hd hl
  have hs := h.sound
  refine inv_calling ⟨hs.u1.phase .send, hs.u2, hs.u3, hs.status⟩ hb hl hd hg
    (phasesOf_of_phase hph (by rw [hp]; decide) (by simp) rfl rfl) ?_
  have hf : isFrame s.u1.expTxid s.txFrame = true := by simpa [State.frameOk, hp] using h.frame
  rw [State.frameOk, Bool.or_eq_true]
  exact .inr hf

theorem inv_sendStep (hp : s.u1.phase = .send) : (s.answered a).sendStep.Inv := by
  obtain ⟨hb, hl, _, hd⟩ := hrun
  obtain ⟨hph, hg⟩ := inv_running h hb hd hl
  have hs := h.sound
  exact inv_calling ⟨hs.u1.phase .recv, hs.u2, hs.u3, hs.status⟩ hb hl hd hg
    (phasesOf_of_phase hph (by rw [hp]; decide) (by simp) rfl rfl) (State.frameOk_of_phase (.inr rfl))

/-- The read of a transaction, and what the command does with its result in the same step. -/
theorem inv_recvStep (hp : s.u1.phase = .recv) :
    (afterOf (some i) (s.answered a).recvResult (s.answered a).recvStep).Inv := by
  have hs : (s.answered a).recvStep.Sound :=
    State.Sound.recvStep ⟨h.sound.u1, h.sound.u2, h.sound.u3, h.sound.status⟩
  have hrun' : (s.answered a).recvStep.runs i := hrun
  have hq : ∀ e, (s.answered a).recvResult = .fail e → e ∈ [Status.noData, .shortRead, .idMismatch] :=
    fun e he => parseResponse_statuses he
  obtain ⟨hb, hl, hh, hd⟩ := hrun
  obtain ⟨hph, hg⟩ := inv_running h hb hd hl
  rcases phasesOf_cases s.cfg hph with ⟨ho, _⟩ | ⟨hw, hx⟩ | ⟨hr, hx⟩ | ⟨_, hx⟩
  · rw [afterOf_oneTransaction ho]
    cases hres : (s.answered a).recvResult with
    | ok p => exact inv_succeed _ hs hrun' (calls_channel i (by cases i <;> first | rfl | exact Bool.noConfusion ho))
    | fail e => exact inv_fail hs hrun' (xactFailure_mem_statuses ho e (hq e hres))
  · obtain ⟨_, h2, h3, hlt, _⟩ := inXact_iff.1 hx
    obtain ⟨⟨page, addr, reg⟩, hw'⟩ := Option.isSome_iff_exists.1 hw
    rw [afterOf_write (s := (s.answered a).recvStep) hw' hl fun he => by
      simp [h3, sendPhase_exchange he]]
    exact inv_afterWriteElem hs hrun' hg hw rfl h2 h3 (hlt.resolve_left (by decide)) hq ..
  · obtain ⟨_, h2, h3, hlt, hc⟩ := inXact_iff.1 hx
    obtain ⟨⟨page, addr, reg⟩, hr'⟩ := Option.isSome_iff_exists.1 hr
    rw [afterOf_read (s := (s.answered a).recvStep) hr' hl fun he => by
      simp [h3, recvPhase_exchange he]]
    exact inv_afterReadElem hs hrun' hg hr h2 h3 (hlt.resolve_left (by decide))
      (hc.resolve_left fun hne => hne rfl) hq ..
  · rw [(settling_iff.1 hx).1] at hp
    cases hp

/-- The settle delay of an exchange. -/
theorem inv_delayStep (hp : s.u1.phase = .idle) : (settledOf i (s.answered a).delayStep).Inv := by
  have hs : (s.answered a).delayStep.Sound := ⟨h.sound.u1, h.sound.u2, h.sound.u3, h.sound.status⟩
  have hrun' : ((s.answered a).delayStep.psPhase .recv).runs i := hrun
  obtain ⟨hb, hl, hh, hd⟩ := hrun
  obtain ⟨hph, hg⟩ := inv_running h hb hd hl
  rcases phasesOf_cases s.cfg hph with ⟨_, hx⟩ | ⟨_, hx⟩ | ⟨_, hx⟩ | ⟨he, hx⟩
  · exact absurd hp (inXact_iff.1 hx).1
  · exact absurd hp (inXact_iff.1 hx).1
  · exact absurd hp (inXact_iff.1 hx).1
  · obtain ⟨⟨opcode, fields, c⟩, he'⟩ := Option.isSome_iff_exists.1 he
    rw [settledOf_exchange (s := (s.answered a).delayStep) he' hl]
    exact inv_startReadSeq (hs.psPhase .recv) hrun' hg (readSeqOf_exchange (c := s.cfg) he) (recvPhase_exchange he).symm
      (exchangeOf_bounds he' hg).2 ..

theorem inv_transport {t : State} (ht : s.transport (afterOf (some i)) (settledOf i) = .next t) : t.Inv := by
  obtain ⟨_, ⟨_, rfl⟩ | ⟨a, _, ⟨hp, rfl⟩ | ⟨hp, rfl⟩ | ⟨hp, rfl⟩ | ⟨hp, _, rfl⟩⟩⟩ := State.transport_cases _ _ _ ht
  · exact inv_hang h hrun
  · exact inv_flushStep h hrun a hp
  · exact inv_sendStep h hrun a hp
  · exact inv_recvStep h hrun a hp
  · exact inv_delayStep h hrun a hp

end Transport

/-! ## Steps -/

theorem inv_tick {s : State} (h : s.Inv) : s.tick.Inv := by
  obtain ⟨host, ht⟩ := tick_eq s
  rw [ht]
  exact inv_withWorld h _

theorem inv_idle {s : State} (h : s.Inv) (hb : s.busy = false) :
    s.done = none ∧ s.hung = false ∧ s.unitsIdle = true := by
  have hc := h.control
  simpa [State.controlOk, hb, and_assoc] using hc

/-- Every status a command can end with has a code of at most 7 (R190, R197, R198). -/
theorem code_le_of_mem_statuses {o : Option Instr} {e : Status} (h : e ∈ statusesOf o) : e.code.toNat ≤ 7 := by
  have hall : ∀ e ∈ statusesOf o, e.code.toNat ≤ 7 := by
    cases o with
    | none => exact of_decide_eq_true rfl
    | some i => cases i <;> exact of_decide_eq_true rfl
  exact hall e h

/-- The delivery of a result. -/
theorem inv_deliver {s : State} {r : Rsp} (h : s.Inv) (hb : s.busy = true) (hd : s.done = some r) :
    (s.deliver r).Inv := by
  obtain ⟨hh, hidle, hr⟩ := inv_done h hb hd
  have hu : (s.deliver r).unitsIdle = true := hidle
  refine ⟨h.buffers, h.lengths, by simp [State.controlOk, hh, hu], h.frame, ?_⟩
  simp only [State.resultOk, Bool.and_eq_true, decide_eq_true_eq] at hr
  exact code_le_of_mem_statuses hr.1

/-- A code no operand reader is listed for is no command in the latch either (R96). -/
theorem instr_of_unlisted {op : Byte} (h : operandReader op.toNat = none) : Latch.instr { op := op } = none := by
  unfold Latch.instr
  split
  case h_21 => rfl
  all_goals
    next hop =>
      rw [show op.toNat = _ from hop] at h
      cases h

/-- A record the decoder rejects for its `op` has an unlisted one. -/
theorem operandReader_of_illegalOp {bytes : List Byte} {op : Byte} (h : decode .cmd bytes = .error (.illegalOp op)) :
    operandReader op.toNat = none := by
  change decodeCommand bytes = _ at h
  unfold decodeCommand at h
  split at h
  · cases h
  · split at h
    · next hr => cases h; exact hr
    · split at h <;> cases h

theorem inv_acceptIllegal {s : State} {op : Byte} (h : s.Inv) (hb : s.busy = false)
    (hop : operandReader op.toNat = none) : (s.acceptIllegal op).Inv := by
  obtain ⟨_, hh, _⟩ := inv_idle h hb
  have hs : (s.accept { op := op }).Sound := ⟨h.sound.u1, h.sound.u2, h.sound.u3, h.sound.status⟩
  refine inv_finish hs rfl hh ?_
  rw [State.resultOk, State.accept_latch, instr_of_unlisted hop]
  rfl

theorem inv_accept {i : Instr} {s : State} (h : s.Inv) (hb : s.busy = false) (hi : i.channel = .cmd) :
    (startOf i (s.accept (latchOf i))).Inv := by
  obtain ⟨hd, hh, hidle⟩ := inv_idle h hb
  have hs : (s.accept (latchOf i)).Sound := ⟨h.sound.u1, h.sound.u2, h.sound.u3, h.sound.status⟩
  exact inv_startOf hs ⟨rfl, latchOf_instr i hi, hh, hd⟩ hi hidle rfl

theorem inv_resetWith (c : Config) : (State.resetWith c).Inv := ⟨rfl, rfl, rfl, rfl, Nat.zero_le _⟩

/-- Settles O52. -/
theorem resetMeetsInvariant : Obligations.ResetMeetsInvariant := ⟨inv_resetWith _, inv_resetWith⟩

theorem inv_applyReset (s : State) : s.applyReset.Inv :=
  have h := inv_resetWith s.cfg
  ⟨h.buffers, h.lengths, h.control, h.frame, h.status⟩

/-- Settles O53: each kind of step (`step_cases`) ends in a state that meets the invariant. -/
theorem stepKeepsInvariant : Obligations.StepKeepsInvariant := by
  intro s t h ht
  have htick := inv_tick h
  rcases step_cases ht with ⟨_, rfl⟩ | ⟨_, _, rfl⟩ | ⟨_, _, i, _, hb, _, _, hi, _, rfl⟩ | ⟨_, _, op, hb, _, hop, rfl⟩ |
    ⟨_, _, _, rfl⟩ | ⟨r, _, hb, _, hd, rfl⟩ | ⟨i, _, hb, hh, hd, hl, _, hc⟩
  · exact inv_applyReset s
  · exact htick
  · exact inv_accept htick ((tick_busy s).trans hb) hi
  · exact inv_acceptIllegal htick ((tick_busy s).trans hb) (operandReader_of_illegalOp hop)
  · exact htick
  · exact inv_deliver htick ((tick_busy s).trans hb) ((State.tick_done s).trans hd)
  · exact inv_transport htick ⟨(tick_busy s).trans hb, by rw [State.tick_latch, hl], by rw [State.tick_hung, hh],
      by rw [State.tick_done, hd]⟩ hc

/-! ## No fault -/

/-- A call always has a next state: it returns, or the block is stuck in it. -/
theorem call_next (k : State → State) (s : State) : ∃ t, s.call k = .next t := by
  unfold State.call
  split <;> exact ⟨_, rfl⟩

/-- The next call of a running command has a next state. -/
theorem transport_next {i : Instr} {s : State} (h : s.Inv) (hrun : s.runs i) :
    ∃ t, s.transport (afterOf (some i)) (settledOf i) = .next t := by
  obtain ⟨hb, hl, _, hd⟩ := hrun
  have hin := inBounds_of_inv h hb hd hl
  cases hp : s.u1.phase with
  | flush => rw [State.transport_flush _ _ _ hin hp]; exact call_next _ s
  | send => rw [State.transport_send _ _ _ hin hp]; exact call_next _ s
  | recv => rw [State.transport_recv _ _ _ hin hp]; exact call_next _ s
  | idle =>
    have hset : s.u3.phase = .settle := by
      rcases phasesOf_cases s.cfg (inv_running h hb hd hl).1 with ⟨_, hx⟩ | ⟨_, hx⟩ | ⟨_, hx⟩ | ⟨_, hx⟩
      · exact absurd hp (inXact_iff.1 hx).1
      · exact absurd hp (inXact_iff.1 hx).1
      · exact absurd hp (inXact_iff.1 hx).1
      · exact (settling_iff.1 hx).2.2
    rw [State.transport_settle _ _ _ hin hp hset]
    exact call_next _ s

/-- The command of the latch has a next state while it runs. -/
theorem exec_next {i : Instr} {s : State} (h : s.Inv) (hi : i.channel = .cmd) : ∃ t, exec i s = .next t := by
  cases hb : s.busy with
  | false => exact ⟨_, exec_accept i hi s hb⟩
  | true =>
    rw [exec_command i hi]
    by_cases hl : s.latch.instr = some i
    · rw [State.runCommand_running _ _ _ _ hb (hl.trans (latchOf_instr i hi).symm)]
      cases hh : s.hung with
      | true => exact ⟨_, State.resume_hung _ _ hh⟩
      | false =>
        cases hd : s.done with
        | some r => exact ⟨_, State.resume_deliver _ _ r hh hd⟩
        | none =>
          have hc : i.calls = true := by
            have hp := (inv_running h hb hd hl).1
            cases i <;> first | rfl | exact Bool.noConfusion hp
          rw [State.resume_next _ _ hh hd, nextOf_calls hc]
          exact transport_next h ⟨hb, hl, hh, hd⟩
    · exact ⟨_, State.runCommand_other _ _ _ _ hb (by rwa [latchOf_instr i hi])⟩

/-- A running command of an unlisted code only waits for its delivery. -/
theorem illegalStep_next {s : State} (h : s.Inv) (hb : s.busy = true) (hl : s.latch.instr = none) :
    ∃ t, s.illegalStep = .next t := by
  cases hd : s.done with
  | some r => exact ⟨_, State.resume_deliver _ _ r (inv_done h hb hd).1 hd⟩
  | none =>
    have hc := h.control
    have hp : phasesOf none s = false := rfl
    simp [State.controlOk, hb, hd, hl, hp] at hc

theorem reset_of_not_noReset {s : State} (h : ¬ s.noReset) : ∃ later, s.world.host = .reset :: later := by
  simpa [State.noReset, List.head?_eq_some_iff] using h

/-- Every step of a running block has a next state. -/
theorem step_next_of_busy {s : State} (h : s.Inv) (hb : s.busy = true) : ∃ t, step s = .next t := by
  by_cases hr : s.noReset
  · cases hl : s.latch.instr with
    | some i =>
      rw [step_running hr hb hl]
      exact exec_next (inv_tick h) (instr_channel hl)
    | none =>
      simp only [step, fetch_busy hr hb, hl]
      exact illegalStep_next (inv_tick h) ((tick_busy s).trans hb) (by rw [State.tick_latch, hl])
  · obtain ⟨later, hh⟩ := reset_of_not_noReset hr
    exact ⟨_, step_reset hh⟩

/-- A record on the port is accepted or refused. -/
theorem step_record_noFault {s : State} {bytes : List Byte} {later : List HostInput} (hb : s.busy = false)
    (hc : s.world.host = .cmd bytes :: later) (f : Fault) : step s ≠ .fault f := by
  intro hf
  rw [step, fetch_cmd hb hc, fetchRecord] at hf
  cases hd : decode .cmd bytes with
  | ok i rest =>
    simp only [hd] at hf
    by_cases hw : i.wf s.cfg.maxWords = true
    · rw [if_pos hw] at hf
      cases (exec_accept i (decode_cmd_channel hd) s.tick ((tick_busy s).trans hb)).symm.trans hf
    · rw [if_neg hw] at hf
      cases hf
  | error e =>
    simp only [hd] at hf
    cases e <;> cases hf

/-- An idle block never faults. -/
theorem step_noFault_of_idle {s : State} (hb : s.busy = false) (f : Fault) : step s ≠ .fault f := by
  by_cases hr : s.noReset
  · by_cases hc : ∃ bytes later, s.world.host = .cmd bytes :: later
    · obtain ⟨bytes, later, hc⟩ := hc
      exact step_record_noFault hb hc f
    · rw [step_idle hr hb fun bytes later e => hc ⟨bytes, later, e⟩]
      simp
  · obtain ⟨later, hh⟩ := reset_of_not_noReset hr
    rw [step_reset hh]
    simp

/-- Settles O54. -/
theorem blockNeverFaults : Obligations.BlockNeverFaults := by
  refine ⟨fun s f h => ?_, fun s => step_next_of_busy⟩
  cases hb : s.busy with
  | false => exact step_noFault_of_idle hb f
  | true =>
    obtain ⟨t, ht⟩ := step_next_of_busy h hb
    rw [ht]
    simp

end Sys2Proof.Machine

namespace Sys2Proof.Machine

/-! ## What a command goes on to, whichever it is -/

/-- The loop of a write sequence goes on with a frame or comes to its end. -/
theorem writeLoop_cases (page addr reg : Byte) (onEnd : State → State) (s : State) :
    (∃ flush frame, isFrame 0xBC frame = true ∧
      s.writeLoop page addr reg onEnd = s.awaiting flush frame 0xBC 1) ∨
    s.writeLoop page addr reg onEnd = onEnd s.sqIdle := by
  unfold State.writeLoop
  split
  · exact .inl ⟨_, _, isFrame_writeFrame .., startWrite_awaiting ..⟩
  · exact .inr rfl

/-- The loop of a read sequence goes on with a frame or comes to its end. -/
theorem readLoop_cases (page addr : Byte) (reg : Option Byte) (onEnd : List Byte → State → State) (s : State) :
    (∃ frame, isFrame 0xAB frame = true ∧ s.readLoop page addr reg onEnd = s.awaiting true frame 0xAB 1) ∨
    s.readLoop page addr reg onEnd = onEnd (s.u2.buf.readList 0 s.u2.cnt.toNat) s.sqIdle := by
  unfold State.readLoop
  split
  · exact .inl ⟨_, isFrame_readFrame .., startRead_awaiting ..⟩
  · exact .inr rfl

/-- What a command does after a transaction, the same in every state with this configuration and exchange phase: it
takes the result, or goes on with its write or its read sequence. -/
theorem afterOf_cases {i : Instr} (hc : i.calls = true) (c : Config) (p : PsPhase) (q : XactResult) :
    (i.oneTransaction = true ∧ ∀ s : State, afterOf (some i) q s = s.finishWith (xactData i) q) ∨
    (∃ page addr reg, ∀ s : State, s.latch.instr = some i → s.cfg = c → s.u3.phase = p → afterOf (some i) q s =
      s.afterWriteElem page addr reg (writeEnd i) (fun e t => t.fail (writeFailure i e)) q) ∨
    (∃ page addr reg, ∀ s : State, s.latch.instr = some i → s.cfg = c → s.u3.phase = p → afterOf (some i) q s =
      s.afterReadElem page addr reg (readEnd i) (fun e t => t.fail (readFailure i e)) q) := by
  by_cases ho : i.oneTransaction = true
  · exact .inl ⟨ho, afterOf_oneTransaction ho q⟩
  refine .inr ?_
  by_cases hr : (readSeqOf c i).isSome ∧ ((exchangeOf i).isSome → p = .recv)
  · obtain ⟨⟨page, addr, reg⟩, hr'⟩ := Option.isSome_iff_exists.1 hr.1
    refine .inr ⟨page, addr, reg, fun s hl hcfg hp => ?_⟩
    subst hcfg hp
    exact afterOf_read hr' hl hr.2 q
  · have hw : (writeSeqOf c i).isSome ∧ ((exchangeOf i).isSome → p ≠ .recv) := by
      cases i with
      | fcXact | i2cWrb | i2cRdb => exact absurd rfl ho
      | i2cWrs | psuSend => exact ⟨rfl, fun he => Bool.noConfusion he⟩
      | i2cRds | psuRecv => exact absurd ⟨rfl, fun he => Bool.noConfusion he⟩ hr
      | psuCmd | psuGetHwver | psuCfgWdt | psuSetV | psuGetV | psuMeasV =>
        exact ⟨rfl, fun _ he => hr ⟨rfl, fun _ => he⟩⟩
      | _ => cases hc
    obtain ⟨⟨page, addr, reg⟩, hw'⟩ := Option.isSome_iff_exists.1 hw.1
    refine .inl ⟨page, addr, reg, fun s hl hcfg hp => ?_⟩
    subst hcfg hp
    exact afterOf_write hw' hl hw.2 q

/-- What a command does after the settle delay, the same in every state. -/
theorem settledOf_cases (i : Instr) :
    (∀ s : State, settledOf i s = s) ∨ ∃ opcode fields c, exchangeOf i = some (opcode, fields, c) ∧
      ∀ s : State, s.latch.instr = some i → settledOf i s =
        (s.psPhase .recv).startReadSeq s.cfg.psuPage s.cfg.psuAddr none c (readEnd i) := by
  cases he : exchangeOf i with
  | none => exact .inl fun s => by rw [settledOf_noExchange he]; rfl
  | some x =>
    obtain ⟨opcode, fields, c⟩ := x
    exact .inr ⟨opcode, fields, c, rfl, fun s hl => settledOf_exchange he hl⟩

theorem writeEnd_cases (i : Instr) (s : State) :
    writeEnd i s = s.psPhase .settle ∨ writeEnd i s = s.succeed .none := by
  unfold writeEnd
  split
  · exact .inl rfl
  · exact .inr rfl

theorem readEnd_cases (i : Instr) (b : List Byte) (s : State) :
    readEnd i b s = s.succeed (.bytes b) ∨ readEnd i b s = endReply (replyData i) b s := by
  unfold readEnd
  split
  · exact .inl rfl
  · exact .inr rfl

/-! ## The frame of U1 -/

/-- `TXBUF` is the same, and `RXBUF` outside the bytes the step reads. -/
structure RxOnly (s t : State) : Prop where
  txbuf : t.u1.txbuf = s.u1.txbuf
  rxbuf : ∀ a, s.u1.expLen.toNat + 3 ≤ a → t.u1.rxbuf.read a = s.u1.rxbuf.read a

theorem RxOnly.refl (s : State) : RxOnly s s := ⟨rfl, fun _ _ => rfl⟩

theorem RxOnly.outsideU1 {s t : State} (h : RxOnly s t) : OutsideU1 s t :=
  ⟨fun _ _ => by rw [h.txbuf], h.rxbuf⟩

theorem rxOnly_recvStep {s : State} (hm : s.u1.rxbuf.wf = true) (a : List Byte) :
    RxOnly s (s.answered a).recvStep := by
  refine ⟨rfl, fun b hb => Memory.read_writeList_ge _ hm 0 b _ ?_⟩
  have hlen : ((s.answered a).rxBytes (s.answered a).rxExpected).length ≤ s.u1.expLen.toNat + 3 :=
    List.length_take_le _ _
  omega

section OutsideU1

variable {s t : State} (hm : s.u1.txbuf.wf = true) (h : RxOnly s t)
include hm h

theorem outsideU1_awaiting {flush : Bool} {frame : List Byte} {txid : Byte} {n : Nat}
    (hf : isFrame txid frame = true) : OutsideU1 s (t.awaiting flush frame txid n) := by
  have hlen := isFrame_length hf
  refine ⟨fun a ha => ?_, h.rxbuf⟩
  change (BitVec.ofNat 9 frame.length).toNat ≤ a at ha
  rw [toNat_ofNat9 _ (by omega)] at ha
  change (t.u1.txbuf.writeList 0 frame).read a = _
  rw [h.txbuf]
  exact Memory.read_writeList_ge _ hm 0 a frame (by omega)

theorem outsideU1_writeLoop (i : Instr) (page addr reg : Byte) :
    OutsideU1 s (t.writeLoop page addr reg (writeEnd i)) := by
  rcases writeLoop_cases page addr reg (writeEnd i) t with ⟨_, _, hf, e⟩ | e <;> rw [e]
  · exact outsideU1_awaiting hm h hf
  · rcases writeEnd_cases i t.sqIdle with e | e <;> rw [e] <;> exact RxOnly.outsideU1 ⟨h.txbuf, h.rxbuf⟩

theorem outsideU1_readLoop (i : Instr) (page addr : Byte) (reg : Option Byte) :
    OutsideU1 s (t.readLoop page addr reg (readEnd i)) := by
  rcases readLoop_cases page addr reg (readEnd i) t with ⟨_, hf, e⟩ | e <;> rw [e]
  · exact outsideU1_awaiting hm h hf
  · rcases readEnd_cases i (t.u2.buf.readList 0 t.u2.cnt.toNat) t.sqIdle with e | e <;> rw [e] <;>
      exact RxOnly.outsideU1 ⟨h.txbuf, h.rxbuf⟩

theorem outsideU1_afterOf {i : Instr} (hc : i.calls = true) (hl : t.latch.instr = some i) (q : XactResult) :
    OutsideU1 s (afterOf (some i) q t) := by
  rcases afterOf_cases hc t.cfg t.u3.phase q with ⟨_, e⟩ | ⟨page, addr, reg, e⟩ | ⟨page, addr, reg, e⟩
  · rw [e]
    cases q <;> exact RxOnly.outsideU1 ⟨h.txbuf, h.rxbuf⟩
  · rw [e t hl rfl rfl]
    cases q with
    | ok p => exact outsideU1_writeLoop (t := t.sqNext) hm ⟨h.txbuf, h.rxbuf⟩ i page addr reg
    | fail e => exact RxOnly.outsideU1 ⟨h.txbuf, h.rxbuf⟩
  · rw [e t hl rfl rfl]
    cases q with
    | ok p => exact outsideU1_readLoop (t := (t.sqStore (p.getD 0 0)).sqNext) hm ⟨h.txbuf, h.rxbuf⟩ i page addr reg
    | fail e => exact RxOnly.outsideU1 ⟨h.txbuf, h.rxbuf⟩

theorem outsideU1_settledOf {i : Instr} (hl : t.latch.instr = some i) : OutsideU1 s (settledOf i t) := by
  rcases settledOf_cases i with e | ⟨_, _, c, _, e⟩
  · rw [e]
    exact h.outsideU1
  · rw [e t hl]
    exact outsideU1_readLoop (t := (t.psPhase .recv).loadReadSeq c) hm ⟨h.txbuf, h.rxbuf⟩ ..

theorem outsideU1_startOf {i : Instr} (hc : i.calls = true) (hl : t.latch = latchOf i) :
    OutsideU1 s (startOf i t) := by
  have hsame : ∀ u : State, u.u1 = t.u1 → RxOnly s u := fun u hu => ⟨hu ▸ h.txbuf, hu ▸ h.rxbuf⟩
  cases hg : i.badOperand with
  | true =>
    rw [startOf_bad hc hg hl]
    exact RxOnly.outsideU1 ⟨h.txbuf, h.rxbuf⟩
  | false =>
    rcases startOf_good hc hg t.cfg with ⟨_, _, _, _, _, hf, _, e⟩ | ⟨_, _, page, addr, reg, b, _, e⟩ |
      ⟨_, _, page, addr, reg, n, _, e⟩ | ⟨he, opcode, fields, _, e⟩
    · rw [e t hl rfl]
      exact outsideU1_awaiting hm h hf
    · rw [e t hl rfl]
      refine outsideU1_writeLoop (t := State.loadWriteSeq b (t.psPhase _)) hm ?_ ..
      exact hsame _ rfl
    · rw [e t hl rfl]
      refine outsideU1_readLoop (t := State.loadReadSeq n (t.psPhase _)) hm ?_ ..
      exact hsame _ rfl
    · rw [e t hl, startExchange, ← writeEnd_exchange he]
      exact outsideU1_writeLoop (t := State.loadWriteSeq _ ((t.loadPacket opcode fields).psPhase .send)) hm
        (hsame _ rfl) ..

end OutsideU1

/-- A command that makes calls stores to `TXBUF[0 .. TXLEN)` and `RXBUF[0 .. EXP_LEN + 3)` only. -/
theorem exec_outsideU1 {i : Instr} {s t : State} (hc : i.calls = true) (htx : s.u1.txbuf.wf = true)
    (hrx : s.u1.rxbuf.wf = true) (h : exec i s = .next t) : OutsideU1 s t := by
  rcases exec_command_cases s i (calls_channel i hc) h with
    ⟨_, rfl⟩ | ⟨_, _, rfl⟩ | ⟨_, _, _, rfl⟩ | ⟨r, _, _, _, _, rfl⟩ | ⟨⟨_, hl, _⟩, _, ht⟩
  · exact outsideU1_startOf (t := s.accept (latchOf i)) htx ⟨rfl, fun _ _ => rfl⟩ hc rfl
  · exact (RxOnly.refl _).outsideU1
  · exact (RxOnly.refl _).outsideU1
  · exact ⟨fun _ _ => rfl, fun _ _ => rfl⟩
  · obtain ⟨_, ⟨_, rfl⟩ | ⟨a, _, ⟨_, rfl⟩ | ⟨_, rfl⟩ | ⟨_, rfl⟩ | ⟨_, _, rfl⟩⟩⟩ := State.transport_cases _ _ _ ht
    · exact ⟨fun _ _ => rfl, fun _ _ => rfl⟩
    · exact ⟨fun _ _ => rfl, fun _ _ => rfl⟩
    · exact ⟨fun _ _ => rfl, fun _ _ => rfl⟩
    · exact outsideU1_afterOf htx (rxOnly_recvStep hrx a) hc hl _
    · exact outsideU1_settledOf (t := (s.answered a).delayStep) htx ⟨rfl, fun _ _ => rfl⟩ hl

end Sys2Proof.Machine

namespace Sys2Proof.Machine

/-! ## One transaction leaves U2 and U3 alone -/

theorem sameU2_of {s t : State} (h : t.u2 = s.u2 ∨ t.u2 = { s.u2 with phase := .idle }) : SameU2 s t := by
  rcases h with h | h
  · exact ⟨.inl (by rw [h]), by rw [h], by rw [h], fun _ => by rw [h]⟩
  · exact ⟨.inr (by rw [h]), by rw [h], by rw [h], fun _ => by rw [h]⟩

theorem sameU3_of {s t : State} (h : t.u3 = s.u3 ∨ t.u3 = { s.u3 with phase := .idle }) : SameU3 s t := by
  rcases h with h | h
  · exact ⟨.inl (by rw [h]), by rw [h], by rw [h], fun _ => by rw [h], fun _ => by rw [h]⟩
  · exact ⟨.inr (by rw [h]), by rw [h], by rw [h], fun _ => by rw [h], fun _ => by rw [h]⟩

theorem oneTransaction_calls {i : Instr} (h : i.oneTransaction = true) : i.calls = true := by
  cases i <;> first | rfl | exact Bool.noConfusion h

/-- A one-transaction command writes of U2 and U3 the phases alone, which go idle at its end. -/
theorem exec_oneTransaction_u2_u3 {i : Instr} {s t : State} (ho : i.oneTransaction = true) (h : exec i s = .next t) :
    (t.u2 = s.u2 ∧ t.u3 = s.u3) ∨
    (t.u2 = { s.u2 with phase := .idle } ∧ t.u3 = { s.u3 with phase := .idle }) := by
  have hc := oneTransaction_calls ho
  rcases exec_command_cases s i (calls_channel i hc) h with
    ⟨_, rfl⟩ | ⟨_, _, rfl⟩ | ⟨_, _, _, rfl⟩ | ⟨r, _, _, _, _, rfl⟩ | ⟨_, _, ht⟩
  · cases hg : i.badOperand with
    | true =>
      rw [startOf_bad hc hg rfl]
      exact .inr ⟨rfl, rfl⟩
    | false =>
      obtain ⟨_, _, _, _, _, _, _, _, hstart⟩ := startOf_oneTransaction ho hg s.cfg
      rw [hstart (s.accept (latchOf i)) rfl rfl]
      exact .inl ⟨rfl, rfl⟩
  · exact .inl ⟨rfl, rfl⟩
  · exact .inl ⟨rfl, rfl⟩
  · exact .inl ⟨rfl, rfl⟩
  · obtain ⟨_, ⟨_, rfl⟩ | ⟨a, _, ⟨_, rfl⟩ | ⟨_, rfl⟩ | ⟨_, rfl⟩ | ⟨_, _, rfl⟩⟩⟩ := State.transport_cases _ _ _ ht
    · exact .inl ⟨rfl, rfl⟩
    · exact .inl ⟨rfl, rfl⟩
    · exact .inl ⟨rfl, rfl⟩
    · rw [afterOf_oneTransaction ho]
      cases (s.answered a).recvResult <;> exact .inr ⟨rfl, rfl⟩
    · rw [settledOf_noExchange (by cases i <;> first | rfl | exact Bool.noConfusion ho)]
      exact .inl ⟨rfl, rfl⟩

/-- Settles O49. -/
theorem transactionFrame : Obligations.TransactionFrame := by
  intro i s t ho htx hrx h
  have h23 := exec_oneTransaction_u2_u3 ho h
  exact ⟨exec_outsideU1 (oneTransaction_calls ho) htx hrx h, sameU2_of (h23.imp And.left And.left),
    sameU3_of (h23.imp And.right And.right)⟩

/-! ## The frame of U2 -/

/-- `SQBUF` and `SQ_CNT` are the same. -/
structure SameSeq (s t : State) : Prop where
  buf : t.u2.buf = s.u2.buf
  cnt : t.u2.cnt = s.u2.cnt

theorem sameSeq_writeLoop (i : Instr) (page addr reg : Byte) (s : State) :
    SameSeq s (s.writeLoop page addr reg (writeEnd i)) := by
  rcases writeLoop_cases page addr reg (writeEnd i) s with ⟨_, _, _, e⟩ | e <;> rw [e]
  · exact ⟨rfl, rfl⟩
  · rcases writeEnd_cases i s.sqIdle with e | e <;> rw [e] <;> exact ⟨rfl, rfl⟩

theorem sameSeq_readLoop (i : Instr) (page addr : Byte) (reg : Option Byte) (s : State) :
    SameSeq s (s.readLoop page addr reg (readEnd i)) := by
  rcases readLoop_cases page addr reg (readEnd i) s with ⟨_, _, e⟩ | e <;> rw [e]
  · exact ⟨rfl, rfl⟩
  · rcases readEnd_cases i (s.u2.buf.readList 0 s.u2.cnt.toNat) s.sqIdle with e | e <;> rw [e] <;> exact ⟨rfl, rfl⟩

/-- The list a write sequence copies is below `SQ_CNT`. -/
theorem startWriteSeq_copied (i : Instr) (page addr reg : Byte) {b : List Byte} {s : State} (hm : s.u2.buf.wf = true)
    (hb : b.length ≤ 257) (a : Nat)
    (ha : (s.startWriteSeq page addr reg b (writeEnd i)).u2.cnt.toNat ≤ a) :
    (s.startWriteSeq page addr reg b (writeEnd i)).u2.buf.read a = s.u2.buf.read a := by
  have h := sameSeq_writeLoop i page addr reg (s.loadWriteSeq b)
  rw [State.startWriteSeq] at ha ⊢
  rw [h.cnt] at ha
  change (BitVec.ofNat 9 b.length).toNat ≤ a at ha
  rw [toNat_ofNat9 _ (by omega)] at ha
  rw [h.buf]
  exact Memory.read_writeList_ge _ hm 0 a b (by omega)

theorem psuCalls_of_exchange {i : Instr} (h : (exchangeOf i).isSome) : i.psuCalls = true := by
  cases i <;> first | rfl | exact Bool.noConfusion h

theorem startOf_copied {i : Instr} {s : State} (hm : s.u2.buf.wf = true)
    (hk : s.u3.pkbuf.wf = true ∨ i.psuCalls = false) (hc : i.calls = true) (hl : s.latch = latchOf i) (a : Nat)
    (ha : (startOf i s).u2.cnt.toNat ≤ a) :
    (startOf i s).u2.buf.read a = s.u2.buf.read a := by
  cases hg : i.badOperand with
  | true => rw [startOf_bad hc hg hl]; rfl
  | false =>
    rcases startOf_good hc hg s.cfg with ⟨_, _, _, _, _, _, _, e⟩ | ⟨_, _, page, addr, reg, b, hb, e⟩ |
      ⟨_, _, page, addr, reg, n, _, e⟩ | ⟨he, opcode, fields, hf, e⟩
    · rw [e s hl rfl]
      rfl
    · rw [e s hl rfl] at ha ⊢
      refine startWriteSeq_copied i page addr reg ?_ hb a ha
      exact hm
    · rw [e s hl rfl]
      exact congrArg (Memory.read · a) (sameSeq_readLoop i page addr reg (State.loadReadSeq n (s.psPhase _))).buf
    · have hk : s.u3.pkbuf.wf = true := hk.resolve_right (by simp [psuCalls_of_exchange he])
      rw [e s hl, startExchange_eq hk hf, ← writeEnd_exchange he] at ha ⊢
      exact startWriteSeq_copied i _ _ _ (s := (s.loadPacket opcode fields).psPhase .send) hm
        (by rw [buildPacket_length]; omega) a ha

/-- After a transaction only the element just read is stored. -/
theorem afterOf_element {i : Instr} {s : State} (hm : s.u2.buf.wf = true) (hc : i.calls = true)
    (hl : s.latch.instr = some i) (q : XactResult) (a : Nat) (ha : a ≠ s.u2.idx.toNat) :
    (afterOf (some i) q s).u2.buf.read a = s.u2.buf.read a := by
  rcases afterOf_cases hc s.cfg s.u3.phase q with ⟨_, e⟩ | ⟨page, addr, reg, e⟩ | ⟨page, addr, reg, e⟩
  · rw [e]
    cases q <;> rfl
  · rw [e s hl rfl rfl]
    cases q with
    | ok p => exact congrArg (Memory.read · a) (sameSeq_writeLoop i page addr reg s.sqNext).buf
    | fail e => rfl
  · rw [e s hl rfl rfl]
    cases q with
    | ok p =>
      change (State.readLoop page addr reg (readEnd i) (s.sqStore (p.getD 0 0)).sqNext).u2.buf.read a = _
      rw [(sameSeq_readLoop i page addr reg (s.sqStore (p.getD 0 0)).sqNext).buf]
      exact Memory.read_write_ne _ hm _ a _ ha
    | fail e => rfl

theorem settledOf_buf {i : Instr} {s : State} (hl : s.latch.instr = some i) :
    (settledOf i s).u2.buf = s.u2.buf := by
  rcases settledOf_cases i with e | ⟨_, _, c, _, e⟩
  · rw [e]
  · rw [e s hl]
    exact (sameSeq_readLoop i _ _ _ ((s.psPhase .recv).loadReadSeq c)).buf

/-- A command that makes calls stores to `SQBUF[0 .. SQ_CNT)` at acceptance and to the element just read later. -/
theorem exec_outsideU2 {i : Instr} {s t : State} (hc : i.calls = true) (hm : s.u2.buf.wf = true)
    (hk : s.u3.pkbuf.wf = true ∨ i.psuCalls = false) (h : exec i s = .next t) : OutsideU2 s t := by
  rcases exec_command_cases s i (calls_channel i hc) h with
    ⟨hb, rfl⟩ | ⟨_, _, rfl⟩ | ⟨_, _, _, rfl⟩ | ⟨r, _, _, _, _, rfl⟩ | ⟨⟨hb, hl, _⟩, _, ht⟩
  · exact ⟨fun a _ => startOf_copied (s := s.accept (latchOf i)) hm hk hc rfl a, fun _ hb' => by simp [hb] at hb'⟩
  · exact ⟨fun _ _ _ => rfl, fun _ _ _ => rfl⟩
  · exact ⟨fun _ _ _ => rfl, fun _ _ _ => rfl⟩
  · exact ⟨fun _ _ _ => rfl, fun _ _ _ => rfl⟩
  · refine ⟨fun _ hb' => by simp [hb] at hb', fun b _ hbne => ?_⟩
    obtain ⟨_, ⟨_, rfl⟩ | ⟨a, _, ⟨_, rfl⟩ | ⟨_, rfl⟩ | ⟨_, rfl⟩ | ⟨_, _, rfl⟩⟩⟩ := State.transport_cases _ _ _ ht
    · rfl
    · rfl
    · rfl
    · exact afterOf_element (s := (s.answered a).recvStep) hm hc hl _ b hbne
    · exact congrArg (Memory.read · b) (settledOf_buf (s := (s.answered a).delayStep) hl)

/-! ## A sequence of U2 leaves U3 alone -/

theorem writeEnd_sequence {i : Instr} (h : i.sequence = true) : writeEnd i = State.succeed .none := by
  cases i <;> first | rfl | exact Bool.noConfusion h

theorem writeLoop_u3 {i : Instr} (h : i.sequence = true) (page addr reg : Byte) (s : State) :
    (s.writeLoop page addr reg (writeEnd i)).u3 = s.u3 ∨
    (s.writeLoop page addr reg (writeEnd i)).u3 = { s.u3 with phase := .idle } := by
  rcases writeLoop_cases page addr reg (writeEnd i) s with ⟨_, _, _, e⟩ | e <;> rw [e]
  · exact .inl rfl
  · rw [writeEnd_sequence h]
    exact .inr rfl

theorem readLoop_u3 {i : Instr} (h : i.sequence = true) (page addr : Byte) (reg : Option Byte) (s : State) :
    (s.readLoop page addr reg (readEnd i)).u3 = s.u3 ∨
    (s.readLoop page addr reg (readEnd i)).u3 = { s.u3 with phase := .idle } := by
  rcases readLoop_cases page addr reg (readEnd i) s with ⟨_, _, e⟩ | e <;> rw [e]
  · exact .inl rfl
  · rw [readEnd_sequence h]
    exact .inr rfl

theorem sequence_calls {i : Instr} (h : i.sequence = true) : i.calls = true := by
  cases i <;> first | rfl | exact Bool.noConfusion h

theorem psuCalls_of_sequence {i : Instr} (h : i.sequence = true) : i.psuCalls = false := by
  cases i <;> first | rfl | exact Bool.noConfusion h

theorem startOf_sequence_u3 {i : Instr} {s : State} (hs : i.sequence = true) (hl : s.latch = latchOf i) :
    (startOf i s).u3 = s.u3 ∨ (startOf i s).u3 = { s.u3 with phase := .idle } := by
  have hc := sequence_calls hs
  cases hg : i.badOperand with
  | true => rw [startOf_bad hc hg hl]; exact .inr rfl
  | false =>
    rcases startOf_good hc hg s.cfg with ⟨_, _, _, _, _, _, _, e⟩ | ⟨_, _, page, addr, reg, b, _, e⟩ |
      ⟨_, _, page, addr, reg, n, _, e⟩ | ⟨he, _⟩
    · rw [e s hl rfl]
      exact .inl rfl
    · rw [e s hl rfl, hs]
      exact writeLoop_u3 hs page addr reg (s.loadWriteSeq b)
    · rw [e s hl rfl, hs]
      exact readLoop_u3 hs page addr reg (s.loadReadSeq n)
    · rw [sequence_of_exchange he] at hs
      cases hs

theorem afterOf_sequence_u3 {i : Instr} {s : State} (hs : i.sequence = true) (hl : s.latch.instr = some i)
    (q : XactResult) : (afterOf (some i) q s).u3 = s.u3 ∨ (afterOf (some i) q s).u3 = { s.u3 with phase := .idle } := by
  rcases afterOf_cases (sequence_calls hs) s.cfg s.u3.phase q with ⟨_, e⟩ | ⟨page, addr, reg, e⟩ | ⟨page, addr, reg, e⟩
  · rw [e]
    cases q <;> exact .inr rfl
  · rw [e s hl rfl rfl]
    cases q with
    | ok p => exact writeLoop_u3 hs page addr reg s.sqNext
    | fail e => exact .inr rfl
  · rw [e s hl rfl rfl]
    cases q with
    | ok p => exact readLoop_u3 hs page addr reg (s.sqStore (p.getD 0 0)).sqNext
    | fail e => exact .inr rfl

theorem exec_sequence_u3 {i : Instr} {s t : State} (hs : i.sequence = true) (h : exec i s = .next t) :
    t.u3 = s.u3 ∨ t.u3 = { s.u3 with phase := .idle } := by
  rcases exec_command_cases s i (calls_channel i (sequence_calls hs)) h with
    ⟨_, rfl⟩ | ⟨_, _, rfl⟩ | ⟨_, _, _, rfl⟩ | ⟨r, _, _, _, _, rfl⟩ | ⟨⟨_, hl, _⟩, _, ht⟩
  · exact startOf_sequence_u3 (s := s.accept (latchOf i)) hs rfl
  · exact .inl rfl
  · exact .inl rfl
  · exact .inl rfl
  · obtain ⟨_, ⟨_, rfl⟩ | ⟨a, _, ⟨_, rfl⟩ | ⟨_, rfl⟩ | ⟨_, rfl⟩ | ⟨_, _, rfl⟩⟩⟩ := State.transport_cases _ _ _ ht
    · exact .inl rfl
    · exact .inl rfl
    · exact .inl rfl
    · exact afterOf_sequence_u3 (s := (s.answered a).recvStep) hs hl _
    · rw [settledOf_noExchange (by cases i <;> first | rfl | exact Bool.noConfusion hs)]
      exact .inl rfl

/-- Settles O50. -/
theorem sequenceFrame : Obligations.SequenceFrame := by
  intro i s t hs htx hrx hm h
  have hc := sequence_calls hs
  exact ⟨exec_outsideU1 hc htx hrx h, exec_outsideU2 hc hm (.inr (psuCalls_of_sequence hs)) h,
    sameU3_of (exec_sequence_u3 hs h)⟩

/-! ## The frame of U3 -/

theorem outsideU3_of_phase {s t : State} (h : ∃ p, t.u3 = { s.u3 with phase := p }) : OutsideU3 s t := by
  obtain ⟨p, h⟩ := h
  exact ⟨fun _ _ => by rw [h], fun _ _ => by rw [h], fun _ _ => by rw [h]⟩

theorem writeLoop_u3_phase (i : Instr) (page addr reg : Byte) (s : State) :
    ∃ p, (s.writeLoop page addr reg (writeEnd i)).u3 = { s.u3 with phase := p } := by
  rcases writeLoop_cases page addr reg (writeEnd i) s with ⟨_, _, _, e⟩ | e <;> rw [e]
  · exact ⟨s.u3.phase, rfl⟩
  · rcases writeEnd_cases i s.sqIdle with e | e <;> rw [e] <;> exact ⟨_, rfl⟩

/-- A read sequence writes U3 at its end only, and there the reply alone. -/
theorem outsideU3_readLoop {i : Instr} {page addr : Byte} {reg : Option Byte} {s t : State} (hm : s.u3.rpbuf.wf = true)
    (ht : ∃ p, t.u3 = { s.u3 with phase := p }) (hc : t.u2.cnt.toNat ≤ 255) :
    OutsideU3 s (t.readLoop page addr reg (readEnd i)) := by
  obtain ⟨p, ht⟩ := ht
  rcases readLoop_cases page addr reg (readEnd i) t with ⟨_, _, e⟩ | e <;> rw [e]
  · exact outsideU3_of_phase ⟨p, ht⟩
  · generalize hb : t.u2.buf.readList 0 t.u2.cnt.toNat = b
    have hlen : b.length ≤ 255 := by rw [← hb, Memory.length_readList]; exact hc
    rcases readEnd_cases i b t.sqIdle with e | e <;> rw [e]
    · exact outsideU3_of_phase ⟨.idle, by rw [State.succeed_u3, State.sqIdle_u3, ht]⟩
    · refine ⟨fun a _ => ?_, fun a _ => ?_, fun a ha => ?_⟩
      · change t.u3.pkbuf.read a = _
        rw [ht]
      · change t.u3.pkbuf.read a = _
        rw [ht]
      · change (BitVec.ofNat 8 b.length).toNat ≤ a at ha
        rw [toNat_ofNat8 _ (by omega)] at ha
        change (t.u3.rpbuf.writeList 0 b).read a = _
        rw [ht]
        exact Memory.read_writeList_ge _ hm 0 a b (by omega)

theorem outsideU3_startExchange {s : State} {opcode : Byte} {fields : List Byte} (hm : s.u3.pkbuf.wf = true)
    (hb : s.busy = false) (hf : fields.length ≤ 251) {t : State}
    (ht : ∃ p, t.u3 = { (s.loadPacket opcode fields).u3 with phase := p }) : OutsideU3 s t := by
  obtain ⟨p, ht⟩ := ht
  refine ⟨fun a ha => ?_, fun _ hb' => by simp [hb] at hb', fun _ _ => by rw [ht]; rfl⟩
  rw [ht] at ha ⊢
  change (BitVec.ofNat 9 (fields.length + 6)).toNat ≤ a at ha
  rw [toNat_ofNat9 _ (by omega)] at ha
  exact Memory.read_writeList_ge _ hm 0 a _ (by rw [buildPacket_length]; omega)

theorem startReadSeq_cnt_le {n : Nat} (hn : n ≤ 255) (s : State) : (s.loadReadSeq n).u2.cnt.toNat ≤ 255 := by
  change (BitVec.ofNat 9 n).toNat ≤ 255
  rwa [toNat_ofNat9 _ (by omega)]

theorem outsideU3_startOf {i : Instr} {s t : State} (hs : s.Sound) (hb : s.busy = false) (hc : i.calls = true)
    (h3 : t.u3 = s.u3) (hl : t.latch = latchOf i) : OutsideU3 s (startOf i t) := by
  have hrp := hs.u3.rpbuf.1
  cases hg : i.badOperand with
  | true =>
    rw [startOf_bad hc hg hl]
    exact outsideU3_of_phase ⟨.idle, h3 ▸ rfl⟩
  | false =>
    rcases startOf_good hc hg t.cfg with ⟨_, _, _, _, _, _, _, e⟩ | ⟨_, _, page, addr, reg, b, _, e⟩ |
      ⟨_, _, page, addr, reg, n, hn, e⟩ | ⟨he, opcode, fields, hf, e⟩
    · rw [e t hl rfl]
      exact outsideU3_of_phase ⟨s.u3.phase, h3⟩
    · rw [e t hl rfl]
      obtain ⟨p, hp⟩ := writeLoop_u3_phase i page addr reg (State.loadWriteSeq b (t.psPhase _))
      exact outsideU3_of_phase ⟨p, hp.trans (h3 ▸ rfl)⟩
    · rw [e t hl rfl]
      exact outsideU3_readLoop hrp ⟨_, by rw [State.loadReadSeq_u3, State.psPhase_u3, h3]⟩ (startReadSeq_cnt_le hn _)
    · rw [e t hl, startExchange, ← writeEnd_exchange he]
      obtain ⟨p, hp⟩ := writeLoop_u3_phase i _ _ _ (State.loadWriteSeq _
        (State.psPhase .send (t.loadPacket opcode fields)))
      exact outsideU3_startExchange (opcode := opcode) hs.u3.pkbuf.1 hb hf ⟨p, hp.trans (by simp [h3])⟩

/-- The step of a read: the bytes of a reply are at most 255, since the phases are those of the running command. -/
theorem outsideU3_recvStep {i : Instr} {s : State} (h : s.Inv) (hrun : s.runs i) (hp : s.u1.phase = .recv)
    (q : XactResult) (a : List Byte) : OutsideU3 s (afterOf (some i) q (s.answered a).recvStep) := by
  obtain ⟨hb, hl, _, hd⟩ := hrun
  rcases phasesOf_cases s.cfg (inv_running h hb hd hl).1 with ⟨ho, _⟩ | ⟨hw, hx⟩ | ⟨hr, hx⟩ | ⟨_, hx⟩
  · rw [afterOf_oneTransaction ho]
    cases q <;> exact outsideU3_of_phase ⟨.idle, rfl⟩
  · obtain ⟨_, _, h3, _⟩ := inXact_iff.1 hx
    obtain ⟨⟨page, addr, reg⟩, hw⟩ := Option.isSome_iff_exists.1 hw
    rw [afterOf_write (s := (s.answered a).recvStep) hw hl fun he => by simp [h3, sendPhase_exchange he]]
    cases q with
    | ok p => exact outsideU3_of_phase (writeLoop_u3_phase i page addr reg (State.sqNext _))
    | fail e => exact outsideU3_of_phase ⟨.idle, rfl⟩
  · obtain ⟨_, _, h3, _, hc⟩ := inXact_iff.1 hx
    obtain ⟨⟨page, addr, reg⟩, hr⟩ := Option.isSome_iff_exists.1 hr
    rw [afterOf_read (s := (s.answered a).recvStep) hr hl fun he => by simp [h3, recvPhase_exchange he]]
    cases q with
    | ok p => exact outsideU3_readLoop h.sound.u3.rpbuf.1 ⟨s.u3.phase, rfl⟩ (hc.resolve_left fun hne => hne rfl)
    | fail e => exact outsideU3_of_phase ⟨.idle, rfl⟩
  · rw [(settling_iff.1 hx).1] at hp
    cases hp

theorem outsideU3_delayStep {i : Instr} {s : State} (h : s.Inv) (hrun : s.runs i) (a : List Byte) :
    OutsideU3 s (settledOf i (s.answered a).delayStep) := by
  obtain ⟨hb, hl, _, hd⟩ := hrun
  rcases settledOf_cases i with e | ⟨_, _, c, he, e⟩
  · rw [e]
    exact outsideU3_of_phase ⟨s.u3.phase, rfl⟩
  · rw [e (s.answered a).delayStep hl]
    exact outsideU3_readLoop h.sound.u3.rpbuf.1 ⟨.recv, rfl⟩
      (startReadSeq_cnt_le (exchangeOf_bounds he (inv_running h hb hd hl).2).2 _)

theorem psuCalls_calls {i : Instr} (h : i.psuCalls = true) : i.calls = true := by
  cases i <;> first | rfl | exact Bool.noConfusion h

/-- A command that makes calls stores to `PKBUF[0 .. PKLEN)` at acceptance and to `RPBUF[0 .. RPLEN)`. -/
theorem exec_outsideU3 {i : Instr} {s t : State} (hc : i.calls = true) (hinv : s.Inv) (h : exec i s = .next t) :
    OutsideU3 s t := by
  rcases exec_command_cases s i (calls_channel i hc) h with
    ⟨hb, rfl⟩ | ⟨_, _, rfl⟩ | ⟨_, _, _, rfl⟩ | ⟨r, _, _, _, _, rfl⟩ | ⟨hrun, _, ht⟩
  · exact outsideU3_startOf (t := s.accept (latchOf i)) hinv.sound hb hc rfl rfl
  · exact outsideU3_of_phase ⟨_, rfl⟩
  · exact outsideU3_of_phase ⟨_, rfl⟩
  · exact outsideU3_of_phase ⟨s.u3.phase, rfl⟩
  · obtain ⟨_, ⟨_, rfl⟩ | ⟨a, _, ⟨_, rfl⟩ | ⟨_, rfl⟩ | ⟨hp, rfl⟩ | ⟨_, _, rfl⟩⟩⟩ := State.transport_cases _ _ _ ht
    · exact outsideU3_of_phase ⟨s.u3.phase, rfl⟩
    · exact outsideU3_of_phase ⟨s.u3.phase, rfl⟩
    · exact outsideU3_of_phase ⟨s.u3.phase, rfl⟩
    · exact outsideU3_recvStep hinv hrun hp _ a
    · exact outsideU3_delayStep hinv hrun a

/-- Settles O51. -/
theorem exchangeFrame : Obligations.ExchangeFrame := by
  intro i s t hp hinv h
  have hc := psuCalls_calls hp
  have hs := hinv.sound
  exact ⟨exec_outsideU1 hc hs.u1.txbuf.1 hs.u1.rxbuf.1 h, exec_outsideU2 hc hs.u2.buf.1 (.inl hs.u3.pkbuf.1) h,
    exec_outsideU3 hc hinv h⟩

end Sys2Proof.Machine

namespace Sys2Proof.Machine

/-! ## Two states that make the same call -/

/-- Outside a transaction the only call is the settle delay. -/
theorem settle_of_transport {after : XactResult → State → State} {settled : State → State} {s t : State}
    (h : s.transport after settled = .next t) (h1 : s.u1.phase = .idle) : s.u3.phase = .settle := by
  obtain ⟨hin, _⟩ := State.transport_cases _ _ _ h
  cases h3 : s.u3.phase with
  | settle => rfl
  | _ => simp [State.transport, hin, h1, h3] at h

/-- Two states with the same reply and the same phases take the same branch of the next call. -/
theorem transport_pair {after : XactResult → State → State} {settled : State → State} {s t u : State}
    (h : s.transport after settled = .next t) (hin : u.inBounds = true) (hr : u.reply = s.reply)
    (h1 : u.u1.phase = s.u1.phase) (h3 : u.u3.phase = s.u3.phase) :
    (t = s.hang ∧ u.transport after settled = .next u.hang) ∨
    (∃ a, s.u1.phase = .flush ∧ t = (s.answered a).flushStep ∧
      u.transport after settled = .next (u.answered a).flushStep) ∨
    (∃ a, s.u1.phase = .send ∧ t = (s.answered a).sendStep ∧
      u.transport after settled = .next (u.answered a).sendStep) ∨
    (∃ a, s.u1.phase = .recv ∧ t = after (s.answered a).recvResult (s.answered a).recvStep ∧
      u.transport after settled = .next (after (u.answered a).recvResult (u.answered a).recvStep)) ∨
    (∃ a, s.u1.phase = .idle ∧ t = settled (s.answered a).delayStep ∧
      u.transport after settled = .next (settled (u.answered a).delayStep)) := by
  obtain ⟨_, ⟨hs, rfl⟩ | ⟨a, hs, ⟨hp, rfl⟩ | ⟨hp, rfl⟩ | ⟨hp, rfl⟩ | ⟨hp, hq, rfl⟩⟩⟩ := State.transport_cases _ _ _ h
  · refine .inl ⟨rfl, ?_⟩
    rw [hs] at hr
    cases hp : u.u1.phase with
    | flush => rw [State.transport_flush _ _ _ hin hp, State.call_never _ _ hr]
    | send => rw [State.transport_send _ _ _ hin hp, State.call_never _ _ hr]
    | recv => rw [State.transport_recv _ _ _ hin hp, State.call_never _ _ hr]
    | idle =>
      have hq := settle_of_transport h (h1.symm.trans hp)
      rw [State.transport_settle _ _ _ hin hp (h3.trans hq), State.call_never _ _ hr]
  · refine .inr (.inl ⟨a, hp, rfl, ?_⟩)
    rw [State.transport_flush _ _ _ hin (h1.trans hp), State.call_returns _ _ a (hr.trans hs)]
  · refine .inr (.inr (.inl ⟨a, hp, rfl, ?_⟩))
    rw [State.transport_send _ _ _ hin (h1.trans hp), State.call_returns _ _ a (hr.trans hs)]
  · refine .inr (.inr (.inr (.inl ⟨a, hp, rfl, ?_⟩)))
    rw [State.transport_recv _ _ _ hin (h1.trans hp), State.call_returns _ _ a (hr.trans hs)]
  · refine .inr (.inr (.inr (.inr ⟨a, hp, rfl, ?_⟩)))
    rw [State.transport_settle _ _ _ hin (h1.trans hp) (h3.trans hq), State.call_returns _ _ a (hr.trans hs)]

/-! ## No rule reads `STATUS` -/

/-- `s` with another content of `STATUS`. -/
def State.withStatus (x : BitVec 4) (s : State) : State := { s with status := x }

/-- What `f` does is the same whatever `STATUS` holds, and it leaves `STATUS` alone. -/
def IgnoresStatus (f : State → State) : Prop := ∀ x s, f (s.withStatus x) = (f s).withStatus x

theorem ignoresStatus_writeEnd (i : Instr) : IgnoresStatus (writeEnd i) := by
  intro x s
  unfold writeEnd
  split <;> rfl

theorem ignoresStatus_readEnd (i : Instr) (b : List Byte) : IgnoresStatus (readEnd i b) := by
  intro x s
  unfold readEnd
  split <;> rfl

theorem ignoresStatus_writeLoop (i : Instr) (page addr reg : Byte) :
    IgnoresStatus (State.writeLoop page addr reg (writeEnd i)) := by
  intro x s
  by_cases h : s.u2.idx.toNat < s.u2.cnt.toNat
  · rw [State.writeLoop, State.writeLoop, if_pos h, if_pos (by exact h)]
    rfl
  · rw [State.writeLoop, State.writeLoop, if_neg h, if_neg (by exact h)]
    exact ignoresStatus_writeEnd i x s.sqIdle

theorem ignoresStatus_readLoop (i : Instr) (page addr : Byte) (reg : Option Byte) :
    IgnoresStatus (State.readLoop page addr reg (readEnd i)) := by
  intro x s
  by_cases h : s.u2.idx.toNat < s.u2.cnt.toNat
  · rw [State.readLoop, State.readLoop, if_pos h, if_pos (by exact h)]
    cases reg <;> rfl
  · rw [State.readLoop, State.readLoop, if_neg h, if_neg (by exact h)]
    exact ignoresStatus_readEnd i _ x s.sqIdle

theorem startOf_withStatus_calls {i : Instr} {s : State} (hc : i.calls = true) (hl : s.latch = latchOf i)
    (x : BitVec 4) : startOf i (s.withStatus x) = (startOf i s).withStatus x := by
  have hl' : (s.withStatus x).latch = latchOf i := hl
  cases hg : i.badOperand with
  | true => rw [startOf_bad hc hg hl, startOf_bad hc hg hl']; rfl
  | false =>
    rcases startOf_good hc hg s.cfg with ⟨_, _, _, _, _, _, _, e⟩ | ⟨_, _, page, addr, reg, b, _, e⟩ |
      ⟨_, _, page, addr, reg, n, _, e⟩ | ⟨he, opcode, fields, _, e⟩
    · rw [e s hl rfl, e (s.withStatus x) hl' rfl]
      rfl
    · rw [e s hl rfl, e (s.withStatus x) hl' rfl]
      exact ignoresStatus_writeLoop i page addr reg x (State.loadWriteSeq b (s.psPhase _))
    · rw [e s hl rfl, e (s.withStatus x) hl' rfl]
      exact ignoresStatus_readLoop i page addr reg x (State.loadReadSeq n (s.psPhase _))
    · rw [e s hl, e (s.withStatus x) hl', startExchange, startExchange, ← writeEnd_exchange he]
      exact ignoresStatus_writeLoop i _ _ _ x (State.loadWriteSeq _ ((s.loadPacket opcode fields).psPhase .send))

theorem startOf_withStatus {i : Instr} {s : State} (hi : i.channel = .cmd) (hl : s.latch = latchOf i) (x : BitVec 4) :
    startOf i (s.withStatus x) = (startOf i s).withStatus x := by
  by_cases hc : i.calls = true
  · exact startOf_withStatus_calls hc hl x
  by_cases hs : i.storesNothing = true
  · obtain ⟨r, _, _, e⟩ := startOf_storesNothing hs
    rw [e s hl, e (s.withStatus x) hl]
    rfl
  cases i with
  | fcBuild =>
    change startFcBuild (s.withStatus x) = (startFcBuild s).withStatus x
    by_cases hp : s.latch.bytes.length > maxPayload
    · rw [startFcBuild, startFcBuild, if_pos hp, if_pos (by exact hp)]
      rfl
    · rw [startFcBuild, startFcBuild, if_neg hp, if_neg (by exact hp)]
      rfl
  | psuBuild =>
    change startPsuBuild (s.withStatus x) = (startPsuBuild s).withStatus x
    by_cases hf : s.latch.bytes.length > maxPsuPayload - 1
    · rw [startPsuBuild, startPsuBuild, if_pos hf, if_pos (by exact hf)]
      rfl
    · rw [startPsuBuild, startPsuBuild, if_neg hf, if_neg (by exact hf)]
      rfl
  | _ => first | exact absurd rfl hc | exact absurd rfl hs | cases hi

theorem afterOf_withStatus {i : Instr} {s : State} (hc : i.calls = true) (hl : s.latch.instr = some i) (q : XactResult)
    (x : BitVec 4) : afterOf (some i) q (s.withStatus x) = (afterOf (some i) q s).withStatus x := by
  rcases afterOf_cases hc s.cfg s.u3.phase q with ⟨_, e⟩ | ⟨page, addr, reg, e⟩ | ⟨page, addr, reg, e⟩
  · rw [e, e]
    cases q <;> rfl
  · rw [e s hl rfl rfl, e (s.withStatus x) hl rfl rfl]
    cases q with
    | ok p => exact ignoresStatus_writeLoop i page addr reg x s.sqNext
    | fail e => rfl
  · rw [e s hl rfl rfl, e (s.withStatus x) hl rfl rfl]
    cases q with
    | ok p => exact ignoresStatus_readLoop i page addr reg x (s.sqStore (p.getD 0 0)).sqNext
    | fail e => rfl

theorem settledOf_withStatus {i : Instr} {s : State} (hl : s.latch.instr = some i) (x : BitVec 4) :
    settledOf i (s.withStatus x) = (settledOf i s).withStatus x := by
  rcases settledOf_cases i with e | ⟨_, _, c, _, e⟩
  · rw [e, e]
  · rw [e s hl, e (s.withStatus x) hl]
    exact ignoresStatus_readLoop i _ _ _ x ((s.psPhase .recv).loadReadSeq c)

theorem transport_withStatus {i : Instr} {s t : State} (hc : i.calls = true) (hl : s.latch.instr = some i)
    (h : s.transport (afterOf (some i)) (settledOf i) = .next t) (x : BitVec 4) :
    (s.withStatus x).transport (afterOf (some i)) (settledOf i) = .next (t.withStatus x) := by
  obtain ⟨hin, _⟩ := State.transport_cases _ _ _ h
  rcases transport_pair (u := s.withStatus x) h hin rfl rfl rfl with ⟨rfl, e⟩ | ⟨a, _, rfl, e⟩ | ⟨a, _, rfl, e⟩ |
    ⟨a, _, rfl, e⟩ | ⟨a, _, rfl, e⟩ <;> rw [e]
  · rfl
  · rfl
  · rfl
  · exact congrArg _ (afterOf_withStatus (s := (s.answered a).recvStep) hc hl _ x)
  · exact congrArg _ (settledOf_withStatus (s := (s.answered a).delayStep) hl x)

/-- A step of a command whatever `STATUS` holds: the same, but for `STATUS`, which the delivery alone writes. -/
theorem exec_withStatus {i : Instr} {s t : State} (hi : i.channel = .cmd) (h : exec i s = .next t) (x : BitVec 4) :
    exec i (s.withStatus x) = .next t ∨ exec i (s.withStatus x) = .next (t.withStatus x) := by
  have hlatch := latchOf_instr i hi
  rcases exec_command_cases s i hi h with
    ⟨hb, rfl⟩ | ⟨hb, hl, rfl⟩ | ⟨hb, hl, hh, rfl⟩ | ⟨r, hb, hl, hh, hd, rfl⟩ | ⟨⟨hb, hl, hh, hd⟩, hc, ht⟩ <;>
    rw [exec_command i hi]
  · rw [State.runCommand_accept _ _ _ (s.withStatus x) hb]
    exact .inr (congrArg _ (startOf_withStatus (s := s.accept (latchOf i)) hi rfl x))
  · exact .inr (State.runCommand_other _ _ _ (t.withStatus x) hb (by rwa [hlatch]))
  · rw [State.runCommand_running _ _ _ (t.withStatus x) hb (hl.trans hlatch.symm),
      State.resume_hung _ (t.withStatus x) hh]
    exact .inr rfl
  · rw [State.runCommand_running _ _ _ (s.withStatus x) hb (hl.trans hlatch.symm),
      State.resume_deliver _ (s.withStatus x) r hh hd]
    exact .inl rfl
  · rw [State.runCommand_running _ _ _ (s.withStatus x) hb (hl.trans hlatch.symm),
      State.resume_next _ (s.withStatus x) hh hd, nextOf_calls hc]
    exact .inr (transport_withStatus hc hl ht x)

theorem tick_withStatus (x : BitVec 4) (s : State) : (s.withStatus x).tick = s.tick.withStatus x := by
  cases hh : s.world.host with
  | nil => rw [tick_nil hh, tick_nil (s := s.withStatus x) hh]
  | cons input later =>
    cases input with
    | reset => simp [State.tick, State.withStatus, hh]
    | wait =>
      rw [tick_wait hh, tick_wait (s := s.withStatus x) hh]
      rfl
    | cmd bytes =>
      cases hb : s.busy with
      | true => rw [tick_holds hb hh, tick_holds (s := s.withStatus x) hb hh]
      | false =>
        rw [tick_accepts hb hh, tick_accepts (s := s.withStatus x) hb hh]
        rfl

/-- Only a host command is fetched. -/
theorem fetch_run_channel {s : State} {i : Instr} (h : fetch s = .run i) : i.channel = .cmd := by
  unfold fetch at h
  split at h
  · cases h
  · split at h
    · next hl => cases h; exact instr_channel hl
    · cases h
  · unfold fetchRecord at h
    split at h
    · next hd =>
      split at h
      · cases h; exact decode_cmd_channel hd
      · cases h
    · cases h
    · cases h
  · cases h

theorem illegalStep_withStatus {s t : State} (h : s.illegalStep = .next t) (x : BitVec 4) :
    (s.withStatus x).illegalStep = .next t ∨ (s.withStatus x).illegalStep = .next (t.withStatus x) := by
  unfold State.illegalStep at h ⊢
  cases hh : s.hung with
  | true =>
    rw [State.resume_hung _ _ hh] at h
    cases h
    exact .inr (State.resume_hung _ (s.withStatus x) hh)
  | false =>
    cases hd : s.done with
    | some r =>
      rw [State.resume_deliver _ _ r hh hd] at h
      cases h
      exact .inl (State.resume_deliver _ (s.withStatus x) r hh hd)
    | none =>
      rw [State.resume_next _ _ hh hd] at h
      cases h

theorem step_withStatus {s t : State} (h : step s = .next t) (x : BitVec 4) :
    step (s.withStatus x) = .next t ∨ step (s.withStatus x) = .next (t.withStatus x) := by
  have hf : fetch (s.withStatus x) = fetch s := rfl
  unfold step at h ⊢
  rw [hf, tick_withStatus]
  cases hfs : fetch s <;> simp only [hfs] at h ⊢
  case reset => cases h; exact .inl rfl
  case idle => cases h; exact .inr rfl
  case run i => exact exec_withStatus (fetch_run_channel hfs) h x
  case illegal op => cases h; exact .inr rfl
  case illegalRunning => exact illegalStep_withStatus h x
  case malformed => cases h
  case unpresentable => cases h

/-- Settles O9. -/
theorem statusWrittenNotRead : Obligations.StatusWrittenNotRead := by
  refine ⟨fun s t h => ?_, fun s t x h => step_withStatus h x⟩
  rcases step_cases h with ⟨hr, rfl⟩ | ⟨_, _, rfl⟩ | ⟨_, _, i, _, _, _, _, _, _, rfl⟩ | ⟨_, _, op, _, _, _, rfl⟩ |
    ⟨_, _, _, rfl⟩ | ⟨r, _, hb, _, _, rfl⟩ | ⟨i, _, _, _, _, _, _, hc⟩
  · exact .inr (.inr ⟨hr, rfl⟩)
  · exact .inl (State.tick_status s)
  · exact .inl ((sameTop_startOf i _).status.trans (State.tick_status s))
  · exact .inl (State.tick_status s)
  · exact .inl (State.tick_status s)
  · exact .inr (.inl ⟨r, hb, rfl, by simp, rfl⟩)
  · obtain ⟨_, _, hstatus, _⟩ := transport_top hc
    exact .inl (hstatus.trans (State.tick_status s))

end Sys2Proof.Machine

namespace Sys2Proof.Machine

/-! ## Two runs of one command, from states with any old contents (R30, R44, R63) -/

/-- The buffers a command reads back are canonical. -/
def State.Canonical (s : State) : Prop :=
  s.u1.txbuf.wf = true ∧ s.u2.buf.wf = true ∧ s.u3.pkbuf.wf = true ∧ s.u3.rpbuf.wf = true

section Canonical

variable {s : State} (h : s.Canonical)
include h

theorem State.Canonical.txbuf : s.u1.txbuf.wf = true := And.left h

theorem State.Canonical.sqbuf : s.u2.buf.wf = true := And.left (And.right h)

theorem State.Canonical.pkbuf : s.u3.pkbuf.wf = true := And.left (And.right (And.right h))

theorem State.Canonical.rpbuf : s.u3.rpbuf.wf = true := And.right (And.right (And.right h))

theorem State.Canonical.awaiting (flush : Bool) (frame : List Byte) (txid : Byte) (n : Nat) :
    (s.awaiting flush frame txid n).Canonical :=
  ⟨Memory.wf_writeList _ h.txbuf _ _, And.right h⟩

theorem State.Canonical.loadFrame (frame : List Byte) : (s.loadFrame frame).Canonical :=
  ⟨Memory.wf_writeList _ h.txbuf _ _, And.right h⟩

theorem State.Canonical.sqStore (b : Byte) : (s.sqStore b).Canonical :=
  ⟨h.txbuf, Memory.wf_write _ h.sqbuf _ _, And.right (And.right h)⟩

theorem State.Canonical.loadWriteSeq (b : List Byte) : (s.loadWriteSeq b).Canonical :=
  ⟨h.txbuf, Memory.wf_writeList _ h.sqbuf _ _, And.right (And.right h)⟩

theorem State.Canonical.loadPacket (opcode : Byte) (fields : List Byte) : (s.loadPacket opcode fields).Canonical :=
  ⟨h.txbuf, h.sqbuf, Memory.wf_writeList _ h.pkbuf _ _, h.rpbuf⟩

theorem State.Canonical.loadReply (b : List Byte) : (s.loadReply b).Canonical :=
  ⟨h.txbuf, h.sqbuf, h.pkbuf, Memory.wf_writeList _ h.rpbuf _ _⟩

end Canonical

/-- What two states of the same run share, whatever else they hold: configuration, flags, running command, phases, the
environment, and the events since the run began (with histories `hs` and `hu`). -/
structure Twin (hs hu : List Event) (s u : State) : Prop where
  cfg : u.cfg = s.cfg
  busy : u.busy = s.busy
  done : u.done = s.done
  hung : u.hung = s.hung
  instr : s.busy = true → u.latch.instr = s.latch.instr
  fc : u.u1.phase = s.u1.phase
  sq : u.u2.phase = s.u2.phase
  ps : u.u3.phase = s.u3.phase
  env : u.world.env = s.world.env
  calls : u.world.calls = s.world.calls
  rxIn : u.world.rxIn = s.world.rxIn
  hist : ∃ events, s.world.hist = hs ++ events ∧ u.world.hist = hu ++ events
  left : s.Canonical
  right : u.Canonical

/-- The registers of the transaction under way agree, and so does its frame. -/
structure TwinXact (s u : State) : Prop where
  txlen : u.u1.txlen = s.u1.txlen
  expTxid : u.u1.expTxid = s.u1.expTxid
  expLen : u.u1.expLen = s.u1.expLen
  frame : u.txFrame = s.txFrame

/-- What agrees of U2 by where the command is: nothing in a lone transaction, the bytes to write in a write sequence,
the bytes read so far in a read sequence, nothing before the settle delay. -/
inductive TwinSeq (i : Instr) (s u : State) : Prop where
  | alone (ho : i.oneTransaction = true) (h2 : s.u2.phase = .idle)
  | writing (hw : (writeSeqOf s.cfg i).isSome) (h2 : s.u2.phase = .wr)
      (h3 : (exchangeOf i).isSome → s.u3.phase ≠ .recv) (hidx : u.u2.idx = s.u2.idx) (hcnt : u.u2.cnt = s.u2.cnt)
      (hbuf : ∀ a, a < s.u2.cnt.toNat → u.u2.buf.read a = s.u2.buf.read a)
  | reading (hr : (readSeqOf s.cfg i).isSome) (h2 : s.u2.phase = .rd)
      (h3 : (exchangeOf i).isSome → s.u3.phase = .recv) (hidx : u.u2.idx = s.u2.idx) (hcnt : u.u2.cnt = s.u2.cnt)
      (hbuf : ∀ a, a < s.u2.idx.toNat → u.u2.buf.read a = s.u2.buf.read a)
  | settling (h1 : s.u1.phase = .idle) (h2 : s.u2.phase = .idle)

/-- Two states of the same run of `i`, whose operands are good once a call of it is under way. -/
structure Tied (hs hu : List Event) (i : Instr) (s u : State) : Prop where
  twin : Twin hs hu s u
  idle : s.busy = false → s.done = none ∧ s.u2.phase = .idle
  ended : ∀ r, s.done = some r → s.u2.phase = .idle
  going : s.busy = true → s.done = none → s.latch.instr = some i →
    i.badOperand = false ∧ TwinXact s u ∧ TwinSeq i s u

section Twin

variable {hs hu : List Event} {s u : State} (h : Twin hs hu s u)
include h

theorem Twin.finish (r : Rsp) : Twin hs hu (s.finish r) (u.finish r) :=
  { h with done := rfl, fc := rfl, sq := rfl, ps := rfl }

theorem Twin.deliver (r : Rsp) : Twin hs hu (s.deliver r) (u.deliver r) := by
  obtain ⟨events, e1, e2⟩ := h.hist
  exact { h with busy := rfl, done := rfl, instr := fun hb => (by cases hb),
                 hist := ⟨events ++ [.rsp r], by simp [e1], by simp [e2]⟩ }

theorem Twin.accept (l : Latch) : Twin hs hu (s.accept l) (u.accept l) := by
  obtain ⟨events, e1, e2⟩ := h.hist
  exact { h with busy := rfl, instr := fun _ => rfl, hist := ⟨events ++ [.cmd l], by simp [e1], by simp [e2]⟩ }

theorem Twin.psPhase (p : PsPhase) : Twin hs hu (s.psPhase p) (u.psPhase p) :=
  { h with ps := rfl }

theorem Twin.sqIdle : Twin hs hu s.sqIdle u.sqIdle :=
  { h with sq := rfl }

theorem Twin.sqNext : Twin hs hu s.sqNext u.sqNext :=
  { h with }

theorem Twin.sqStore (b : Byte) : Twin hs hu (s.sqStore b) (u.sqStore b) :=
  { h with left := h.left.sqStore b, right := h.right.sqStore b }

theorem Twin.loadWriteSeq (b : List Byte) : Twin hs hu (s.loadWriteSeq b) (u.loadWriteSeq b) :=
  { h with sq := rfl, left := h.left.loadWriteSeq b, right := h.right.loadWriteSeq b }

theorem Twin.loadReadSeq (n : Nat) : Twin hs hu (s.loadReadSeq n) (u.loadReadSeq n) :=
  { h with sq := rfl }

theorem Twin.awaiting (flush : Bool) (frame : List Byte) (txid : Byte) (n : Nat) :
    Twin hs hu (s.awaiting flush frame txid n) (u.awaiting flush frame txid n) :=
  { h with fc := rfl, left := h.left.awaiting flush frame txid n, right := h.right.awaiting flush frame txid n }

theorem Twin.loadFrame (frame : List Byte) : Twin hs hu (s.loadFrame frame) (u.loadFrame frame) :=
  { h with left := h.left.loadFrame frame, right := h.right.loadFrame frame }

theorem Twin.loadPacket (opcode : Byte) (fields : List Byte) :
    Twin hs hu (s.loadPacket opcode fields) (u.loadPacket opcode fields) :=
  { h with left := h.left.loadPacket opcode fields, right := h.right.loadPacket opcode fields }

theorem Twin.loadReply (b : List Byte) : Twin hs hu (s.loadReply b) (u.loadReply b) :=
  { h with left := h.left.loadReply b, right := h.right.loadReply b }

theorem Twin.reply : u.reply = s.reply := by
  rw [State.reply, State.reply, h.env, h.calls]

theorem Twin.answered (a : List Byte) : Twin hs hu (s.answered a) (u.answered a) :=
  { h with env := congrArg List.tail h.env, calls := congrArg (· + 1) h.calls, rxIn := congrArg (· ++ a) h.rxIn }

theorem Twin.hang : Twin hs hu s.hang u.hang :=
  { h.answered [] with hung := rfl }

theorem Twin.log (e : Event) : Twin hs hu (s.log e) (u.log e) := by
  obtain ⟨events, e1, e2⟩ := h.hist
  exact { h with hist := ⟨events ++ [e], by simp [e1], by simp [e2]⟩ }

theorem Twin.flushStep : Twin hs hu s.flushStep u.flushStep :=
  { h.log .flush with fc := rfl, rxIn := rfl }

theorem Twin.sendStep (hx : TwinXact s u) : Twin hs hu s.sendStep u.sendStep := by
  have hw : u.sendStep = { u.log (.write s.txFrame) with u1 := { u.u1 with phase := .recv } } := by
    rw [← hx.frame]
    rfl
  rw [hw]
  exact { h.log (.write s.txFrame) with fc := rfl }

theorem Twin.rxBytes (hx : TwinXact s u) : u.rxBytes u.rxExpected = s.rxBytes s.rxExpected := by
  rw [State.rxBytes, State.rxBytes, State.rxExpected, State.rxExpected, h.rxIn, hx.expLen]

theorem Twin.recvResult (hx : TwinXact s u) : u.recvResult = s.recvResult := by
  rw [State.recvResult, State.recvResult, h.rxBytes hx, hx.expTxid, hx.expLen]

theorem Twin.recvStep (hx : TwinXact s u) : Twin hs hu s.recvStep u.recvStep := by
  have hlog := h.log (.read s.rxExpected (s.rxBytes s.rxExpected))
  have hn : u.rxExpected = s.rxExpected := by rw [State.rxExpected, State.rxExpected, hx.expLen]
  refine { hlog with fc := rfl, rxIn := ?_, hist := ?_ }
  · rw [State.recvStep_world, State.recvStep_world, h.rxIn, hn]
  · rw [State.recvStep_world, State.recvStep_world, h.rxBytes hx, hn]
    exact hlog.hist

theorem Twin.delayStep : Twin hs hu s.delayStep u.delayStep := by
  have hd : u.delayStep = u.log (.delay s.cfg.settleDelay) := by
    rw [← h.cfg]
    rfl
  rw [hd]
  exact h.log _

end Twin

/-! ### The ends of a step, each of which keeps two states of a run tied -/

theorem TwinSeq.u2 {i : Instr} {s u : State} (h : TwinSeq i s u) :
    s.u2.phase = .idle ∨ u.u2.idx = s.u2.idx ∧ u.u2.cnt = s.u2.cnt := by
  cases h with
  | alone _ h2 => exact .inl h2
  | writing _ _ _ hidx hcnt => exact .inr ⟨hidx, hcnt⟩
  | reading _ _ _ hidx hcnt => exact .inr ⟨hidx, hcnt⟩
  | settling _ h2 => exact .inl h2

theorem inBounds_twin {hs hu : List Event} {i : Instr} {s u : State} (h : Twin hs hu s u) (hx : TwinXact s u)
    (hq : TwinSeq i s u) : u.inBounds = s.inBounds := by
  unfold State.inBounds
  rw [hx.txlen, hx.expLen, h.sq]
  rcases hq.u2 with h2 | ⟨hidx, hcnt⟩
  · rw [h2]
  · rw [hidx, hcnt]

/-- `TwinSeq` speaks of the configuration and the units only, and of the idle `FC_PHASE` before the settle delay. -/
theorem TwinSeq.of_units {i : Instr} {s u s' u' : State} (h : TwinSeq i s u)
    (h1 : s.u1.phase = .idle → s'.u1.phase = .idle) (hc : s'.cfg = s.cfg) (hs2 : s'.u2 = s.u2) (hs3 : s'.u3 = s.u3)
    (hu2 : u'.u2 = u.u2) : TwinSeq i s' u' := by
  cases h with
  | alone ho h2 => exact .alone ho (hs2 ▸ h2)
  | writing hw h2 h3 hidx hcnt hbuf =>
    exact .writing (hc ▸ hw) (by rw [hs2, h2]) (by rwa [hs3]) (by rw [hs2, hu2, hidx]) (by rw [hs2, hu2, hcnt])
      (by rwa [hs2, hu2])
  | reading hr h2 h3 hidx hcnt hbuf =>
    exact .reading (hc ▸ hr) (by rw [hs2, h2]) (by rwa [hs3]) (by rw [hs2, hu2, hidx]) (by rw [hs2, hu2, hcnt])
      (by rwa [hs2, hu2])
  | settling h1' h2 => exact .settling (h1 h1') (hs2 ▸ h2)

theorem Memory.readList_congr {m m' : Memory} {a n : Nat} (h : ∀ b, b < a + n → m'.read b = m.read b) :
    m'.readList a n = m.readList a n := by
  induction n generalizing a with
  | zero => rfl
  | succ n ih => rw [Memory.readList, Memory.readList, h a (by omega), ih fun b hb => h b (by omega)]

section Tied

variable {hs hu : List Event} {i : Instr} {s u : State} (h : Twin hs hu s u) (hb : s.busy = true)
include h hb

/-- The command is over. -/
theorem tied_finish (r : Rsp) : Tied hs hu i (s.finish r) (u.finish r) where
  twin := h.finish r
  idle hf := by rw [State.finish_busy, hb] at hf; cases hf
  ended _ _ := rfl
  going _ hd := by cases hd

theorem tied_readEnd {b : List Byte} (hr : (readSeqOf s.cfg i).isSome) (hl : b.length ≤ 255) :
    Tied hs hu i (readEnd i b s) (readEnd i b u) := by
  rcases readSeqOf_kind hr with hk | hk
  · rw [readEnd_sequence hk]
    exact tied_finish h hb _
  · rw [readEnd_psu hk, endReply_withResult _ _ _ h.left.rpbuf hl, endReply_withResult _ _ _ h.right.rpbuf hl]
    exact tied_finish (h.loadReply b) hb _

variable (hd : s.done = none) (hg : i.badOperand = false)
include hd hg

theorem tied_going (hx : TwinXact s u) (hq : TwinSeq i s u) : Tied hs hu i s u where
  twin := h
  idle hf := by rw [hb] at hf; cases hf
  ended r hr := by rw [hd] at hr; cases hr
  going _ _ _ := ⟨hg, hx, hq⟩

/-- A transaction is about to begin, with the same frame. -/
theorem tied_awaiting {flush flush' : Bool} {frame frame' : List Byte} {txid : Byte} {n : Nat}
    (hf : isFrame txid frame = true) (hflush : flush' = flush) (hframe : frame' = frame)
    (hq : TwinSeq i (s.awaiting flush frame txid n) (u.awaiting flush' frame' txid n)) :
    Tied hs hu i (s.awaiting flush frame txid n) (u.awaiting flush' frame' txid n) := by
  subst hflush hframe
  have hlen := isFrame_length hf
  have htx : ∀ v : State, v.Canonical → (v.awaiting flush' frame' txid n).txFrame = frame' := fun v hv => by
    change (v.u1.txbuf.writeList 0 frame').readList 0 (BitVec.ofNat 9 frame'.length).toNat = frame'
    rw [toNat_ofNat9 _ (by omega), Memory.readList_writeList _ hv.txbuf]
  exact tied_going (h.awaiting flush' frame' txid n) hb hd hg ⟨rfl, rfl, rfl, by rw [htx s h.left, htx u h.right]⟩ hq

/-- The start of a write sequence; an exchange has at least one byte to write. -/
theorem tied_startWriteSeq (hw : (writeSeqOf s.cfg i).isSome) (h3 : (exchangeOf i).isSome → s.u3.phase ≠ .recv)
    {b : List Byte} (hl : b.length ≤ 257) (hne : (exchangeOf i).isSome → b ≠ []) (page addr reg : Byte) :
    Tied hs hu i (s.startWriteSeq page addr reg b (writeEnd i)) (u.startWriteSeq page addr reg b (writeEnd i)) := by
  cases b with
  | nil =>
    rw [startWriteSeq_nil, startWriteSeq_nil, writeEnd, if_neg fun he => hne he rfl]
    exact tied_finish (h.loadReadSeq 0).sqIdle hb _
  | cons v l =>
    have hcnt : (BitVec.ofNat 9 (v :: l).length).toNat = (v :: l).length := toNat_ofNat9 _ (by omega)
    rw [startWriteSeq_cons _ _ _ _ _ _ _ h.left.sqbuf hl, startWriteSeq_cons _ _ _ _ _ _ _ h.right.sqbuf hl]
    refine tied_awaiting (h.loadWriteSeq (v :: l)) hb hd hg (isFrame_writeFrame ..) (by rw [h.cfg]) (by rw [h.cfg])
      (.writing hw rfl h3 rfl rfl fun a ha => ?_)
    replace ha : a < (v :: l).length := hcnt ▸ ha
    have hs := Memory.read_writeList _ h.left.sqbuf 0 a (v :: l) ha
    have hu := Memory.read_writeList _ h.right.sqbuf 0 a (v :: l) ha
    rw [Nat.zero_add] at hs hu
    exact hu.trans hs.symm

theorem tied_startReadSeq (hr : (readSeqOf s.cfg i).isSome) (h3 : (exchangeOf i).isSome → s.u3.phase = .recv)
    {n : Nat} (hn : n ≤ 255) (page addr : Byte) (reg : Option Byte) :
    Tied hs hu i (s.startReadSeq page addr reg n (readEnd i)) (u.startReadSeq page addr reg n (readEnd i)) := by
  rcases Nat.eq_zero_or_pos n with rfl | hpos
  · rw [startReadSeq_zero, startReadSeq_zero]
    exact tied_readEnd (h.loadReadSeq 0).sqIdle hb hr (Nat.zero_le _)
  · rw [startReadSeq_pos _ _ _ _ _ _ hpos hn, startReadSeq_pos _ _ _ _ _ _ hpos hn]
    exact tied_awaiting (h.loadReadSeq n) hb hd hg (isFrame_readFrame ..) rfl (by rw [h.cfg])
      (.reading hr rfl h3 rfl rfl fun a ha => absurd ha (Nat.not_lt_zero a))

variable (hx : TwinXact s u)
include hx

theorem tied_writeEnd (h1 : s.u1.phase = .idle) (h2 : s.u2.phase = .idle) :
    Tied hs hu i (writeEnd i s) (writeEnd i u) := by
  unfold writeEnd
  split
  · exact tied_going (h.psPhase .settle) hb hd hg ⟨hx.txlen, hx.expTxid, hx.expLen, hx.frame⟩ (.settling h1 h2)
  · exact tied_finish h hb _

/-- After an element of a write sequence. -/
theorem tied_afterWriteElem (h1 : s.u1.phase = .idle) (hw : (writeSeqOf s.cfg i).isSome) (h2 : s.u2.phase = .wr)
    (h3 : (exchangeOf i).isSome → s.u3.phase ≠ .recv) (hidx : u.u2.idx = s.u2.idx) (hcnt : u.u2.cnt = s.u2.cnt)
    (hbuf : ∀ a, a < s.u2.cnt.toNat → u.u2.buf.read a = s.u2.buf.read a)
    (hlt : s.u2.idx.toNat < s.u2.cnt.toNat) (hc : s.u2.cnt.toNat ≤ 257) (q : XactResult) (page addr reg : Byte) :
    Tied hs hu i (s.afterWriteElem page addr reg (writeEnd i) (fun e t => t.fail (writeFailure i e)) q)
      (u.afterWriteElem page addr reg (writeEnd i) (fun e t => t.fail (writeFailure i e)) q) := by
  cases q with
  | fail e => exact tied_finish h.sqIdle hb _
  | ok p =>
    rcases Nat.lt_or_eq_of_le hlt with hmore | hlast
    · rw [afterWriteElem_more _ _ _ _ _ _ s hmore hc,
        afterWriteElem_more _ _ _ _ _ _ u (by rw [hidx, hcnt]; exact hmore) (by rw [hcnt]; exact hc)]
      exact tied_awaiting h.sqNext hb hd hg (isFrame_writeFrame ..) (by rw [h.cfg])
        (by rw [h.cfg, hidx, hbuf _ hmore]) (.writing hw h2 h3 (congrArg (· + 1) hidx) hcnt hbuf)
    · rw [afterWriteElem_last _ _ _ _ _ _ s hlast hc,
        afterWriteElem_last _ _ _ _ _ _ u (by rw [hidx, hcnt]; exact hlast) (by rw [hcnt]; exact hc)]
      exact tied_writeEnd h.sqNext.sqIdle hb hd hg ⟨hx.txlen, hx.expTxid, hx.expLen, hx.frame⟩ h1 rfl

omit hx in
/-- After an element of a read sequence. -/
theorem tied_afterReadElem (hr : (readSeqOf s.cfg i).isSome) (h2 : s.u2.phase = .rd)
    (h3 : (exchangeOf i).isSome → s.u3.phase = .recv) (hidx : u.u2.idx = s.u2.idx) (hcnt : u.u2.cnt = s.u2.cnt)
    (hbuf : ∀ a, a < s.u2.idx.toNat → u.u2.buf.read a = s.u2.buf.read a)
    (hlt : s.u2.idx.toNat < s.u2.cnt.toNat) (hc : s.u2.cnt.toNat ≤ 255) (q : XactResult) (page addr : Byte)
    (reg : Option Byte) :
    Tied hs hu i (s.afterReadElem page addr reg (readEnd i) (fun e t => t.fail (readFailure i e)) q)
      (u.afterReadElem page addr reg (readEnd i) (fun e t => t.fail (readFailure i e)) q) := by
  cases q with
  | fail e => exact tied_finish h.sqIdle hb _
  | ok p =>
    have hbuf' : ∀ a, a < s.u2.idx.toNat + 1 → (u.u2.buf.write u.u2.idx.toNat (p.getD 0 0)).read a =
        (s.u2.buf.write s.u2.idx.toNat (p.getD 0 0)).read a := fun a ha => by
      rw [hidx]
      rcases Nat.lt_or_eq_of_le (Nat.le_of_lt_succ ha) with hlt' | rfl
      · rw [Memory.read_write_ne _ h.left.sqbuf _ _ _ (by omega), Memory.read_write_ne _ h.right.sqbuf _ _ _ (by omega)]
        exact hbuf a hlt'
      · rw [Memory.read_write _ h.left.sqbuf, Memory.read_write _ h.right.sqbuf]
    rcases Nat.lt_or_eq_of_le hlt with hmore | hlast
    · rw [afterReadElem_more _ _ _ _ _ _ s hmore hc,
        afterReadElem_more _ _ _ _ _ _ u (by rw [hidx, hcnt]; exact hmore) (by rw [hcnt]; exact hc)]
      have hsucc : (s.u2.idx + 1).toNat = s.u2.idx.toNat + 1 := idx_succ hlt (by omega)
      exact tied_awaiting (h.sqStore (p.getD 0 0)).sqNext hb hd hg (isFrame_readFrame ..) rfl (by rw [h.cfg])
        (.reading hr h2 h3 (congrArg (· + 1) hidx) hcnt fun a ha => hbuf' a (hsucc ▸ ha))
    · rw [afterReadElem_last _ _ _ _ _ _ s hlast hc,
        afterReadElem_last _ _ _ _ _ _ u (by rw [hidx, hcnt]; exact hlast) (by rw [hcnt]; exact hc),
        Memory.readList_congr (m := s.u2.buf.write s.u2.idx.toNat (p.getD 0 0)) fun b hb => hbuf' b (by
          rw [hcnt] at hb; omega), hcnt]
      exact tied_readEnd (h.sqStore (p.getD 0 0)).sqNext.sqIdle hb hr (by rwa [Memory.length_readList])

/-- The step of a read, and what the running command does with its result. -/
theorem tied_recvStep (hin : s.inBounds = true) (hp : s.u1.phase = .recv) (hl : s.latch.instr = some i)
    (hq : TwinSeq i s u) :
    Tied hs hu i (afterOf (some i) s.recvResult s.recvStep) (afterOf (some i) u.recvResult u.recvStep) := by
  have hr := h.recvStep hx
  have hl' : u.recvStep.latch.instr = some i := (h.instr hb).trans hl
  have hxr : TwinXact s.recvStep u.recvStep := ⟨hx.txlen, hx.expTxid, hx.expLen, hx.frame⟩
  rw [h.recvResult hx]
  cases hq with
  | alone ho h2 =>
    rw [afterOf_oneTransaction ho, afterOf_oneTransaction ho]
    cases s.recvResult <;> exact tied_finish hr hb _
  | writing hw h2 h3 hidx hcnt hbuf =>
    obtain ⟨hlt, hc⟩ := inBounds_wr hin h2
    obtain ⟨⟨page, addr, reg⟩, hw'⟩ := Option.isSome_iff_exists.1 hw
    rw [afterOf_write (s := s.recvStep) hw' hl h3,
      afterOf_write (s := u.recvStep) (by rw [hr.cfg]; exact hw') hl' (by rw [hr.ps]; exact h3)]
    exact tied_afterWriteElem hr hb hd hg hxr rfl hw h2 h3 hidx hcnt hbuf hlt hc ..
  | reading hrd h2 h3 hidx hcnt hbuf =>
    obtain ⟨hlt, hc⟩ := inBounds_rd hin h2
    obtain ⟨⟨page, addr, reg⟩, hr'⟩ := Option.isSome_iff_exists.1 hrd
    rw [afterOf_read (s := s.recvStep) hr' hl h3,
      afterOf_read (s := u.recvStep) (by rw [hr.cfg]; exact hr') hl' (by rw [hr.ps]; exact h3)]
    exact tied_afterReadElem hr hb hd hg hrd h2 h3 hidx hcnt hbuf hlt hc ..
  | settling h1 _ =>
    rw [h1] at hp
    cases hp

theorem tied_settledOf (hl : s.latch.instr = some i) (hq : TwinSeq i s u) :
    Tied hs hu i (settledOf i s) (settledOf i u) := by
  rcases settledOf_cases i with e | ⟨opcode, fields, n, he, e⟩
  · rw [e, e]
    exact tied_going h hb hd hg hx hq
  · have hr : (readSeqOf s.cfg i).isSome := readSeqOf_exchange (he ▸ rfl)
    rw [e s hl, e u ((h.instr hb).trans hl), h.cfg]
    exact tied_startReadSeq (h.psPhase .recv) hb hd hg hr (fun _ => rfl)
      (exchangeOf_bounds he hg).2 ..

end Tied

/-! ### Acceptance -/

theorem tied_startOf_calls {hs hu : List Event} {i : Instr} {s u : State} (h : Twin hs hu s u) (hb : s.busy = true)
    (hd : s.done = none) (h2 : s.u2.phase = .idle) (hc : i.calls = true) (hl : s.latch = latchOf i)
    (hl' : u.latch = latchOf i) : Tied hs hu i (startOf i s) (startOf i u) := by
  cases hg : i.badOperand with
  | true =>
    rw [startOf_bad hc hg hl, startOf_bad hc hg hl']
    exact tied_finish h hb _
  | false =>
    rcases startOf_good hc hg s.cfg with ⟨ho, _, _, _, _, hf, _, e⟩ | ⟨hw, he, page, addr, reg, b, hlen, e⟩ |
      ⟨hr, he, page, addr, reg, n, hn, e⟩ | ⟨he, opcode, fields, hf, e⟩
    · rw [e s hl rfl, e u hl' h.cfg]
      exact tied_awaiting h hb hd hg hf rfl rfl (.alone ho h2)
    · rw [e s hl rfl, e u hl' h.cfg, h.ps]
      exact tied_startWriteSeq (h.psPhase (if i.sequence then s.u3.phase else .send)) hb hd hg hw
        (by simp [he]) hlen (by simp [he]) ..
    · rw [e s hl rfl, e u hl' h.cfg, h.ps]
      exact tied_startReadSeq (h.psPhase (if i.sequence then s.u3.phase else .recv)) hb hd hg hr
        (by simp [he]) hn ..
    · rw [e s hl, e u hl', startExchange_eq h.left.pkbuf hf, startExchange_eq h.right.pkbuf hf, h.cfg,
        ← writeEnd_exchange he]
      exact tied_startWriteSeq ((h.loadPacket opcode fields).psPhase .send) hb hd hg (writeSeqOf_exchange he)
        (fun _ => by simp) (by rw [buildPacket_length]; omega) (fun _ => by simp [buildPacket]) ..

theorem tied_startOf {hs hu : List Event} {i : Instr} {s u : State} (h : Twin hs hu s u) (hb : s.busy = true)
    (hd : s.done = none) (h2 : s.u2.phase = .idle) (hi : i.channel = .cmd) (hl : s.latch = latchOf i)
    (hl' : u.latch = latchOf i) : Tied hs hu i (startOf i s) (startOf i u) := by
  by_cases hc : i.calls = true
  · exact tied_startOf_calls h hb hd h2 hc hl hl'
  by_cases hn : i.storesNothing = true
  · obtain ⟨r, _, _, e⟩ := startOf_storesNothing hn
    rw [e s hl, e u hl']
    exact tied_finish h hb r
  cases i with
  | fcBuild page cmd txid payload =>
    rcases startOf_fcBuild hl h.left.txbuf with ⟨hp, e⟩ | ⟨hp, e⟩ <;>
      rcases startOf_fcBuild hl' h.right.txbuf with ⟨hp', e'⟩ | ⟨hp', e'⟩
    · rw [e, e']
      exact tied_finish h hb _
    · omega
    · omega
    · rw [e, e']
      exact tied_finish (h.loadFrame _) hb _
  | psuBuild opcode fields =>
    rcases startOf_psuBuild hl h.left.pkbuf with ⟨hp, e⟩ | ⟨hp, e⟩ <;>
      rcases startOf_psuBuild hl' h.right.pkbuf with ⟨hp', e'⟩ | ⟨hp', e'⟩
    · rw [e, e']
      exact tied_finish h hb _
    · omega
    · omega
    · rw [e, e']
      exact tied_finish (h.loadPacket opcode fields) hb _
  | _ => first | exact absurd rfl hc | exact absurd rfl hn | cases hi

/-! ### Steps and runs -/

theorem tied_deliver {hs hu : List Event} {i : Instr} {s u : State} (h : Tied hs hu i s u) {r : Rsp}
    (hd : s.done = some r) : Tied hs hu i (s.deliver r) (u.deliver r) where
  twin := h.twin.deliver r
  idle _ := ⟨rfl, h.ended r hd⟩
  ended _ hr := by cases hr
  going hb := by cases hb

theorem tied_transport {hs hu : List Event} {i : Instr} {s u t : State} (h : Tied hs hu i s u) (hrun : s.runs i)
    (ht : s.transport (afterOf (some i)) (settledOf i) = .next t) :
    ∃ v, u.transport (afterOf (some i)) (settledOf i) = .next v ∧ Tied hs hu i t v := by
  obtain ⟨hb, hl, _, hd⟩ := hrun
  obtain ⟨hg, hx, hq⟩ := h.going hb hd hl
  obtain ⟨hin, _⟩ := State.transport_cases _ _ _ ht
  have htw := h.twin
  have hinu : u.inBounds = true := (inBounds_twin htw hx hq).trans hin
  rcases transport_pair ht hinu htw.reply htw.fc htw.ps with ⟨rfl, e⟩ | ⟨a, hp, rfl, e⟩ | ⟨a, hp, rfl, e⟩ |
    ⟨a, hp, rfl, e⟩ | ⟨a, hp, rfl, e⟩ <;> refine ⟨_, e, ?_⟩
  · exact tied_going htw.hang hb hd hg ⟨hx.1, hx.2, hx.3, hx.4⟩ (hq.of_units id rfl rfl rfl rfl)
  · exact tied_going (htw.answered a).flushStep hb hd hg ⟨hx.1, hx.2, hx.3, hx.4⟩
      (hq.of_units (by simp [hp]) rfl rfl rfl rfl)
  · exact tied_going ((htw.answered a).sendStep ⟨hx.1, hx.2, hx.3, hx.4⟩) hb hd hg ⟨hx.1, hx.2, hx.3, hx.4⟩
      (hq.of_units (by simp [hp]) rfl rfl rfl rfl)
  · exact tied_recvStep (htw.answered a) hb hd hg ⟨hx.1, hx.2, hx.3, hx.4⟩ hin hp hl
      (hq.of_units id rfl rfl rfl rfl)
  · exact tied_settledOf (htw.answered a).delayStep hb hd hg ⟨hx.1, hx.2, hx.3, hx.4⟩ hl
      (hq.of_units id rfl rfl rfl rfl)

theorem tied_exec {hs hu : List Event} {i : Instr} {s u t : State} (hi : i.channel = .cmd) (h : Tied hs hu i s u)
    (ht : exec i s = .next t) : ∃ v, exec i u = .next v ∧ Tied hs hu i t v := by
  have htw := h.twin
  have hlatch := latchOf_instr i hi
  rcases exec_command_cases s i hi ht with
    ⟨hb, rfl⟩ | ⟨hb, hl, rfl⟩ | ⟨hb, hl, hh, rfl⟩ | ⟨r, hb, hl, hh, hd, rfl⟩ | ⟨hrun, hc, ht⟩ <;>
    rw [exec_command i hi]
  · obtain ⟨hd, h2⟩ := h.idle hb
    exact ⟨_, State.runCommand_accept _ _ _ _ (htw.busy.trans hb),
      tied_startOf (htw.accept (latchOf i)) rfl hd h2 hi rfl rfl⟩
  · exact ⟨_, State.runCommand_other _ _ _ _ (htw.busy.trans hb) (by rwa [htw.instr hb, hlatch]), h⟩
  · rw [State.runCommand_running _ _ _ _ (htw.busy.trans hb) (by rw [htw.instr hb, hl, hlatch])]
    exact ⟨_, State.resume_hung _ _ (htw.hung.trans hh), h⟩
  · rw [State.runCommand_running _ _ _ _ (htw.busy.trans hb) (by rw [htw.instr hb, hl, hlatch])]
    exact ⟨_, State.resume_deliver _ _ r (htw.hung.trans hh) (htw.done.trans hd), tied_deliver h hd⟩
  · obtain ⟨v, hv, htied⟩ := tied_transport h hrun ht
    obtain ⟨hb, hl, hh, hd⟩ := hrun
    rw [State.runCommand_running _ _ _ _ (htw.busy.trans hb) (by rw [htw.instr hb, hl, hlatch]),
      State.resume_next _ _ (htw.hung.trans hh) (htw.done.trans hd), nextOf_calls hc]
    exact ⟨v, hv, htied⟩

theorem tied_execRun {hs hu : List Event} {i : Instr} (hi : i.channel = .cmd) (n : Nat) {s u t : State}
    (h : Tied hs hu i s u) (ht : execRun i n s = .next t) : ∃ v, execRun i n u = .next v ∧ Tied hs hu i t v := by
  induction n generalizing s u with
  | zero =>
    cases ht
    exact ⟨u, rfl, h⟩
  | succ n ih =>
    rw [execRun] at ht
    cases hs' : exec i s with
    | next s' =>
      rw [hs'] at ht
      obtain ⟨u', hu', h'⟩ := tied_exec hi h hs'
      rw [execRun, hu']
      exact ih h' ht
    | fault f => rw [hs'] at ht; cases ht
    | refused r => rw [hs'] at ht; cases ht

theorem canonical_of_buffersOk {s : State} (h : s.buffersOk = true) : s.Canonical := by
  simp only [State.buffersOk, Bool.and_eq_true, and_assoc] at h
  obtain ⟨t, _, _, _, q, _, p, _, y, _⟩ := h
  exact ⟨t, q, p, y⟩

/-- Settles O59: the two runs stay tied (`tied_exec`), by induction on their length. -/
theorem historyIgnoresOldState : Obligations.HistoryIgnoresOldState := by
  intro i s u n hi ⟨hsb, hsd, hsh, hsi⟩ ⟨hub, hud, huh, hui⟩ hsbuf hubuf hcfg henv hcalls hrx s' hs'
  obtain ⟨s1, s2, s3⟩ := unitsIdle_iff.1 hsi
  obtain ⟨u1, u2, u3⟩ := unitsIdle_iff.1 hui
  have htwin : Twin s.world.hist u.world.hist s u :=
    { cfg := hcfg.symm, busy := by rw [hsb, hub], done := by rw [hsd, hud], hung := by rw [hsh, huh]
      instr := fun hb => by rw [hsb] at hb; cases hb
      fc := by rw [s1, u1], sq := by rw [s2, u2], ps := by rw [s3, u3]
      env := henv.symm, calls := hcalls.symm, rxIn := hrx.symm, hist := ⟨[], by simp, by simp⟩
      left := canonical_of_buffersOk hsbuf, right := canonical_of_buffersOk hubuf }
  have htied : Tied s.world.hist u.world.hist i s u :=
    { twin := htwin, idle := fun _ => ⟨hsd, s2⟩, ended := fun _ _ => s2
      going := fun hb => by rw [hsb] at hb; cases hb }
  obtain ⟨u', hu', htied'⟩ := tied_execRun hi n htied hs'
  exact ⟨u', hu', htied'.twin.busy, htied'.twin.rxIn, htied'.twin.hist⟩

end Sys2Proof.Machine

namespace Sys2Proof.Machine

/-! ## Transport and delay calls, for the command that makes them -/

/-- The step of the flush, whichever command makes it. -/
theorem exec_flush (i : Instr) (s : State) (a : List Byte) (hc : i.calls = true) (h : s.runs i)
    (hb : s.inBounds = true) (hp : s.u1.phase = .flush) (hr : s.reply = .returns a) :
    exec i s = .next (s.answered a).flushStep := by
  rw [exec_runs i (calls_channel i hc) s h, nextOf_calls hc, State.transport_flush _ _ _ hb hp,
    State.call_returns _ _ a hr]

/-- The step of the write, whichever command makes it. -/
theorem exec_send (i : Instr) (s : State) (a : List Byte) (hc : i.calls = true) (h : s.runs i)
    (hb : s.inBounds = true) (hp : s.u1.phase = .send) (hr : s.reply = .returns a) :
    exec i s = .next (s.answered a).sendStep := by
  rw [exec_runs i (calls_channel i hc) s h, nextOf_calls hc, State.transport_send _ _ _ hb hp,
    State.call_returns _ _ a hr]

/-- Settles O12: the bytes that arrived in the flush are discarded with the older ones. -/
theorem flushStep : Obligations.FlushStep := by
  intro i s a hc hrun hb hp hr
  rw [exec_flush i s a hc hrun hb hp hr]
  rfl

/-- Settles O13. -/
theorem writeStep : Obligations.WriteStep := by
  intro i s a hc hrun hb hp hr
  rw [exec_send i s a hc hrun hb hp hr]
  rfl

/-! ### The read -/

/-- `U1` of `t` is the one of `s`, or the one of `s` with the next transaction of a sequence begun. -/
def SameOrAwaiting (s t : State) : Prop :=
  t.u1 = s.u1 ∨ ∃ flush frame txid n, t.u1 = (s.awaiting flush frame txid n).u1

theorem sameOrAwaiting_finish {s : State} (h : s.u1.phase = .idle) (r : Rsp) : SameOrAwaiting s (s.finish r) :=
  .inl (by rw [State.finish_u1, ← h])

theorem sameOrAwaiting_writeLoop {s : State} (h : s.u1.phase = .idle) (i : Instr) (page addr reg : Byte) :
    SameOrAwaiting s (s.writeLoop page addr reg (writeEnd i)) := by
  rcases writeLoop_cases page addr reg (writeEnd i) s with ⟨flush, frame, _, e⟩ | e <;> rw [e]
  · exact .inr ⟨flush, frame, _, _, rfl⟩
  · rcases writeEnd_cases i s.sqIdle with e | e <;> rw [e]
    · exact .inl rfl
    · exact sameOrAwaiting_finish (s := s.sqIdle) h _

theorem sameOrAwaiting_readLoop {s : State} (h : s.u1.phase = .idle) (i : Instr) (page addr : Byte)
    (reg : Option Byte) : SameOrAwaiting s (s.readLoop page addr reg (readEnd i)) := by
  rcases readLoop_cases page addr reg (readEnd i) s with ⟨frame, _, e⟩ | e <;> rw [e]
  · exact .inr ⟨true, frame, _, _, rfl⟩
  · rcases readEnd_cases i (s.u2.buf.readList 0 s.u2.cnt.toNat) s.sqIdle with e | e <;> rw [e]
    · exact sameOrAwaiting_finish (s := s.sqIdle) h _
    · exact sameOrAwaiting_finish (s := (s.sqIdle.psPhase .idle).loadReply _) h _

/-- After a transaction the command has a result, or its settle delay is next, or its next transaction has begun. -/
theorem sameOrAwaiting_afterOf {i : Instr} {s : State} (hc : i.calls = true) (hl : s.latch.instr = some i)
    (h : s.u1.phase = .idle) (q : XactResult) : SameOrAwaiting s (afterOf (some i) q s) := by
  rcases afterOf_cases hc s.cfg s.u3.phase q with ⟨_, e⟩ | ⟨page, addr, reg, e⟩ | ⟨page, addr, reg, e⟩
  · rw [e]
    cases q <;> exact sameOrAwaiting_finish h _
  · rw [e s hl rfl rfl]
    cases q with
    | ok p => exact sameOrAwaiting_writeLoop (s := s.sqNext) h ..
    | fail e => exact sameOrAwaiting_finish (s := s.sqIdle) h _
  · rw [e s hl rfl rfl]
    cases q with
    | ok p => exact sameOrAwaiting_readLoop (s := (s.sqStore (p.getD 0 0)).sqNext) h ..
    | fail e => exact sameOrAwaiting_finish (s := s.sqIdle) h _

section SameOrAwaiting

variable {s t : State} (h : SameOrAwaiting s t)
include h

theorem SameOrAwaiting.rxbuf : t.u1.rxbuf = s.u1.rxbuf := by
  rcases h with e | ⟨_, _, _, _, e⟩ <;> rw [e]
  rfl

theorem SameOrAwaiting.rxcnt_of_idle (hp : t.u1.phase = .idle) : t.u1.rxcnt = s.u1.rxcnt := by
  rcases h with e | ⟨flush, _, _, _, e⟩ <;> rw [e] at hp ⊢
  cases flush <;> cases hp

theorem SameOrAwaiting.rxcnt_of_not_idle (hs : s.u1.phase = .idle) (hp : t.u1.phase ≠ .idle) : t.u1.rxcnt = 0 := by
  rcases h with e | ⟨_, _, _, _, e⟩ <;> rw [e] at hp ⊢
  · exact absurd hs hp
  · rfl

end SameOrAwaiting

theorem expLen_le_of_inBounds {s : State} (hb : s.inBounds = true) : s.u1.expLen.toNat ≤ 250 := by
  simp only [State.inBounds, Bool.and_eq_true, decide_eq_true_eq] at hb
  exact hb.1.2

theorem length_readable_le (s : State) (a : List Byte) : (s.readable a).length ≤ s.u1.expLen.toNat + 3 :=
  List.length_take_le ..

/-- A response fits in `RXBUF`, and its length in the 8 bits of `RXCNT` (R17, R18). -/
theorem afterRead_rxcnt {s : State} (hb : s.inBounds = true) (a : List Byte) :
    (s.afterRead a).u1.rxcnt.toNat = (s.readable a).length := by
  have hlen := length_readable_le s a
  have hexp := expLen_le_of_inBounds hb
  exact toNat_ofNat8 _ (by omega)

theorem readable_append_afterRead_rxIn (s : State) (a : List Byte) :
    s.readable a ++ (s.afterRead a).world.rxIn = s.world.rxIn ++ a :=
  List.take_append_drop ..

/-- A read that returns fewer bytes than it asks for has emptied the input buffer (R48). -/
theorem afterRead_rxIn_of_short {s : State} {a : List Byte} (h : (s.readable a).length < s.u1.expLen.toNat + 3) :
    (s.afterRead a).world.rxIn = [] := by
  rw [State.readable, List.length_take] at h
  exact List.drop_eq_nil_of_le (by omega)

/-- Settles O14: the read itself leaves the state `afterRead`, and what the command does with the result in the same
step keeps everything outside the block (`sameTop_afterOf`) and all of `U1` but for a next transaction
(`sameOrAwaiting_afterOf`). -/
theorem readStep : Obligations.ReadStep := by
  intro i s a hc hrun hb hp hr
  have hexec := exec_recv i s a hc hrun hb hp hr
  generalize parseResponse (s.readable a) s.u1.expTxid s.u1.expLen.toNat = q at hexec
  obtain ⟨_, hl, _⟩ := hrun
  have hworld := (sameTop_afterOf i q (s.afterRead a)).world
  have hu1 := sameOrAwaiting_afterOf (s := s.afterRead a) hc hl rfl q
  refine ⟨_, hexec, length_readable_le s a, ?_, fun hshort => ?_, congrArg World.hist hworld,
    congrArg World.calls hworld, congrArg World.env hworld, hu1.rxbuf, fun hi => ?_, hu1.rxcnt_of_not_idle rfl⟩
  · rw [hworld]
    exact readable_append_afterRead_rxIn s a
  · rw [hworld]
    exact afterRead_rxIn_of_short hshort
  · rw [hu1.rxcnt_of_idle hi]
    exact afterRead_rxcnt hb a

/-! ### The settle delay -/

/-- Settles O15: the delay is the step's only call, and the read sequence of the reply begins after it, or is over at
once. -/
theorem delayStep : Obligations.DelayStep := by
  intro i opcode fields c s a he hcount hrun hb hp1 _ hp3 hr t
  have hpsu : i.psuCalls = true := psuCalls_of_exchange (by rw [he]; rfl)
  have hexec := exec_settle i s a (psuCalls_calls hpsu) hrun hb hp1 hp3 hr
  obtain ⟨_, hl, _⟩ := hrun
  rw [settledOf_exchange (s := t) he hl] at hexec
  refine ⟨fun hpos => ?_, fun hzero => ?_⟩
  · rw [hexec, startReadSeq_pos _ _ _ _ _ _ hpos hcount]
    rfl
  · rw [hexec, hzero, startReadSeq_zero, readEnd_psu hpsu]
    rfl

end Sys2Proof.Machine

namespace Sys2Proof

/-! ## Decoding what the encoder wrote, with any bytes after it -/

/-- A record on the CMD port decodes to its command and leaves the bytes after it: the operand reader of its `op`
reads back each operand the encoder wrote, in the same order (log 11). -/
theorem decodeCommand_encode {i : Instr} (hi : i.channel = .cmd) (rest : List Byte) :
    decodeCommand (encode i ++ rest) = .ok i rest := by
  cases i with
  | fcBuild => exact decodeCommand_of (op := 0x01) rfl (by simp)
  | fcParse => exact decodeCommand_of (op := 0x02) rfl (by simp)
  | fcXact => exact decodeCommand_of (op := 0x03) rfl (by simp)
  | i2cWrb => exact decodeCommand_of (op := 0x10) rfl (by simp)
  | i2cRdb => exact decodeCommand_of (op := 0x11) rfl (by simp)
  | i2cWrs => exact decodeCommand_of (op := 0x12) rfl (by simp)
  | i2cRds => exact decodeCommand_of (op := 0x13) rfl (by simp)
  | psuBuild => exact decodeCommand_of (op := 0x20) rfl (by simp)
  | psuSend => exact decodeCommand_of (op := 0x21) rfl (by simp)
  | psuRecv => exact decodeCommand_of (op := 0x22) rfl (by simp)
  | psuCmd => exact decodeCommand_of (op := 0x23) rfl (by simp)
  | psuGetHwver => exact decodeCommand_of (op := 0x24) rfl rfl
  | psuCfgWdt => exact decodeCommand_of (op := 0x25) rfl rfl
  | psuSetV => exact decodeCommand_of (op := 0x26) rfl rfl
  | psuGetV => exact decodeCommand_of (op := 0x27) rfl rfl
  | psuMeasV => exact decodeCommand_of (op := 0x28) rfl rfl
  | voltEnc => exact decodeCommand_of (op := 0x29) rfl (by simp)
  | voltDec => exact decodeCommand_of (op := 0x2A) rfl rfl
  | awEnc => exact decodeCommand_of (op := 0x30) rfl (by simp)
  | awDec => exact decodeCommand_of (op := 0x31) rfl (by simp)
  | _ => cases hi

theorem takeExact_of_length {n : Nat} {l : List Byte} (h : n = l.length) (rest : List Byte) :
    takeExact n (l ++ rest) = some (l, rest) := by
  rw [h, takeExact_append]

/-- A frame whose length byte counts its payload decodes to the row of its command byte (R70, R71, R79). -/
theorem decodeOutbound_frameBytes {length : Byte} {payload : List Byte} (h : length.toNat = payload.length + 4)
    (txid page command : Byte) (rest : List Byte) :
    decodeOutbound (frameBytes length txid page command payload ++ rest) =
      .ok (frameRow length txid page command payload) rest := by
  have ht : takeExact (length.toNat - 4) (payload ++ rest) = some (payload, rest) :=
    takeExact_of_length (by omega) rest
  simp [decodeOutbound, frameBytes, decodeFrameTail, ht]

/-- A packet whose length byte counts its fields decodes to the special row it matches, or to the general one (R85,
R86, R88). -/
theorem decodeOutbound_packetBytes {length : Byte} {fields : List Byte} (h : length.toNat = fields.length + 4)
    (opcode lo hi : Byte) (rest : List Byte) :
    decodeOutbound (packetBytes length opcode fields lo hi ++ rest) =
      .ok (packetRow length opcode fields lo hi) rest := by
  have ht : takeExact (length.toNat - 4) (fields ++ lo :: hi :: rest) = some (fields, lo :: hi :: rest) :=
    takeExact_of_length (by omega) _
  simp [decodeOutbound, packetBytes, decodePacketTail, ht]

theorem frameLength_of_is {length : Byte} {payload : List Byte} (h : frameLengthIs length payload = true) :
    length.toNat = payload.length + 4 := by
  simp only [frameLengthIs, Bool.and_eq_true, decide_eq_true_eq] at h
  exact h.1

/-- A frame with none of the three I2C command bytes is of the general row (R79, R100). -/
theorem frameRow_plain {command : Byte} (h : plainCommand command = true) (length txid page : Byte)
    (payload : List Byte) :
    frameRow length txid page command payload = .frame length txid page command payload := by
  simp only [plainCommand, Bool.not_eq_true', Bool.or_eq_false_iff, beq_eq_false_iff_ne] at h
  obtain ⟨⟨hwrite, hread⟩, hreadwrite⟩ := h
  rw [frameRow, if_neg hwrite, if_neg hread, if_neg hreadwrite]

/-- A packet that no special row matches is of the general row (R88, R100). -/
theorem packetRow_plain {length opcode lo hi : Byte} {fields : List Byte}
    (h : plainPacket length opcode fields lo hi = true) :
    packetRow length opcode fields lo hi = .psuPacket length opcode fields lo hi := by
  unfold packetRow
  split_ifs with hver hget hmeas hwdt hset
  · obtain ⟨rfl, rfl, rfl, rfl⟩ := hver; simp [plainPacket] at h
  · obtain ⟨rfl, rfl, rfl, rfl⟩ := hget; simp [plainPacket] at h
  · obtain ⟨rfl, rfl, rfl, rfl⟩ := hmeas; simp [plainPacket] at h
  · obtain ⟨rfl, rfl, hfield⟩ := hwdt; simp_all [plainPacket]
  · obtain ⟨rfl, rfl, hfield⟩ := hset; simp_all [plainPacket]
  · rfl

/-- A well-formed outbound row is the row its own bytes decode to. -/
theorem decodeOutbound_encode {i : Instr} {maxWords : Nat} (ho : i.channel = .outbound) (hw : i.wf maxWords = true)
    (rest : List Byte) : decodeOutbound (encode i ++ rest) = .ok i rest := by
  cases i with
  | frame length txid page command payload =>
    obtain ⟨hlength, hplain⟩ := Bool.and_eq_true_iff.1 hw
    exact (decodeOutbound_frameBytes (frameLength_of_is hlength) ..).trans (by rw [frameRow_plain hplain])
  | frameI2cWrite | frameI2cRead | frameI2cReadwrite =>
    exact decodeOutbound_frameBytes (frameLength_of_is hw) ..
  | psuPacket length opcode fields lo hi =>
    simp only [Instr.wf, Bool.and_eq_true, decide_eq_true_eq] at hw
    obtain ⟨⟨hlength, _⟩, hplain⟩ := hw
    exact (decodeOutbound_packetBytes hlength ..).trans (by rw [packetRow_plain hplain])
  | psuPktGetHwver => exact decodeOutbound_packetBytes (length := 0x04) (fields := []) rfl 0x02 0x06 0x00 rest
  | psuPktCfgWdt e lo hi => exact decodeOutbound_packetBytes (length := 0x06) (fields := [e, 0]) rfl 0x81 lo hi rest
  | psuPktSetV v lo hi => exact decodeOutbound_packetBytes (length := 0x06) (fields := [v, 0]) rfl 0x83 lo hi rest
  | psuPktGetV => exact decodeOutbound_packetBytes (length := 0x04) (fields := []) rfl 0x03 0x07 0x00 rest
  | psuPktMeasV => exact decodeOutbound_packetBytes (length := 0x04) (fields := []) rfl 0x04 0x08 0x00 rest
  | _ => cases ho

/-- Settles O2, channel by channel. -/
theorem encodeThenDecode : Obligations.EncodeThenDecode := by
  intro maxWords i rest hw hrest
  cases hi : i.channel with
  | cmd => exact decodeCommand_encode hi rest
  | outbound => exact decodeOutbound_encode hi hw rest
  | inbound =>
    rw [hrest hi, List.append_nil]
    cases i with
    | response => rfl
    | _ => cases hi
  | asic =>
    cases i with
    | asicPair byte0 bit8 => cases bit8 <;> rfl
    | _ => cases hi

/-! ## Encoding what the decoder of a wire channel answers -/

theorem takeExact_eq_some {n : Nat} {bs l rest : List Byte} (h : takeExact n bs = some (l, rest)) :
    l.length = n ∧ l ++ rest = bs := by
  induction n generalizing bs l with
  | zero =>
    cases h
    exact ⟨rfl, rfl⟩
  | succ n ih =>
    cases bs with
    | nil => cases h
    | cons b bs =>
      obtain ⟨⟨l', rest'⟩, htake, he⟩ := Option.map_eq_some_iff.1 h
      cases he
      obtain ⟨hlength, happend⟩ := ih htake
      exact ⟨congrArg (· + 1) hlength, congrArg (b :: ·) happend⟩

/-- The row of a frame has the frame's bytes, whichever row it is. -/
theorem encode_frameRow (length txid page command : Byte) (payload : List Byte) :
    (frameRow length txid page command payload).channel = .outbound ∧
    encode (frameRow length txid page command payload) = frameBytes length txid page command payload := by
  unfold frameRow
  split_ifs with hwrite hread hreadwrite
  · exact ⟨rfl, by rw [hwrite]; rfl⟩
  · exact ⟨rfl, by rw [hread]; rfl⟩
  · exact ⟨rfl, by rw [hreadwrite]; rfl⟩
  · exact ⟨rfl, rfl⟩

/-- The two fields of a packet of the rows CFG_WDT and SET_V: the value and a zero (R88). -/
theorem fields_of_value {fields : List Byte} (h : fields.length = 2) (h1 : fields.getD 1 1 = 0) :
    fields = [fields.getD 0 0, 0] := by
  obtain ⟨a, b, rfl⟩ := List.length_eq_two.1 h
  exact congrArg (fun x => [a, x]) h1

/-- The row of a packet has the packet's bytes, whichever row it is. -/
theorem encode_packetRow {length opcode lo hi : Byte} {fields : List Byte} (h : fields.length = length.toNat - 4) :
    (packetRow length opcode fields lo hi).channel = .outbound ∧
    encode (packetRow length opcode fields lo hi) = packetBytes length opcode fields lo hi := by
  unfold packetRow
  split_ifs with hver hget hmeas hwdt hset
  · obtain ⟨rfl, rfl, rfl, rfl⟩ := hver
    exact ⟨rfl, by rw [List.length_eq_zero_iff.1 h]; rfl⟩
  · obtain ⟨rfl, rfl, rfl, rfl⟩ := hget
    exact ⟨rfl, by rw [List.length_eq_zero_iff.1 h]; rfl⟩
  · obtain ⟨rfl, rfl, rfl, rfl⟩ := hmeas
    exact ⟨rfl, by rw [List.length_eq_zero_iff.1 h]; rfl⟩
  · obtain ⟨rfl, rfl, hzero⟩ := hwdt
    exact ⟨rfl, congrArg (packetBytes 0x06 0x81 · lo hi) (fields_of_value h hzero).symm⟩
  · obtain ⟨rfl, rfl, hzero⟩ := hset
    exact ⟨rfl, congrArg (packetBytes 0x06 0x83 · lo hi) (fields_of_value h hzero).symm⟩
  · exact ⟨rfl, rfl⟩

/-- The bytes after a packet's opcode are all in the row they decode to or left over (R85, R86). -/
theorem encode_of_decodePacketTail {length opcode : Byte} {bs rest : List Byte} {i : Instr}
    (h : decodePacketTail length opcode bs = .ok i rest) :
    i.channel = .outbound ∧ encode i ++ rest = [0x55, 0xAA, length, opcode] ++ bs := by
  unfold decodePacketTail at h
  split at h
  · next fields lo hi tail htake =>
    cases h
    obtain ⟨hlength, rfl⟩ := takeExact_eq_some htake
    obtain ⟨hchannel, hencode⟩ := encode_packetRow (opcode := opcode) (lo := lo) (hi := hi) hlength
    exact ⟨hchannel, by simp [hencode, packetBytes]⟩
  · cases h

/-- The bytes after a frame's command byte are all in the row they decode to or left over (R71). -/
theorem encode_of_decodeFrameTail {length txid page command : Byte} {bs rest : List Byte} {i : Instr}
    (h : decodeFrameTail length txid page command bs = .ok i rest) :
    i.channel = .outbound ∧ encode i ++ rest = [length, 0, txid, 0, page, command] ++ bs := by
  unfold decodeFrameTail at h
  split at h
  · next payload tail htake =>
    cases h
    obtain ⟨_, rfl⟩ := takeExact_eq_some htake
    obtain ⟨hchannel, hencode⟩ := encode_frameRow length txid page command payload
    exact ⟨hchannel, by simp [hencode, frameBytes]⟩
  · cases h

theorem encode_of_decodeOutbound {bytes rest : List Byte} {i : Instr} (h : decodeOutbound bytes = .ok i rest) :
    i.channel = .outbound ∧ encode i ++ rest = bytes := by
  unfold decodeOutbound at h
  split at h
  · split at h
    · next hpacket =>
      obtain ⟨rfl, rfl⟩ := hpacket
      exact encode_of_decodePacketTail h
    · split at h
      · next hframe =>
        obtain ⟨rfl, rfl⟩ := hframe
        split at h
        · exact encode_of_decodeFrameTail h
        · cases h
      · cases h
  · cases h

theorem encode_of_decodeInbound {bytes rest : List Byte} {i : Instr} (h : decodeInbound bytes = .ok i rest) :
    i.channel = .inbound ∧ encode i ++ rest = bytes := by
  unfold decodeInbound at h
  split at h
  · cases h
    exact ⟨rfl, List.append_nil _⟩
  · cases h

theorem encode_of_decodeAsic {bytes rest : List Byte} {i : Instr} (h : decodeAsic bytes = .ok i rest) :
    i.channel = .asic ∧ encode i ++ rest = bytes := by
  unfold decodeAsic at h
  split at h
  · split_ifs at h with hzero hone
    · cases h
      exact ⟨rfl, by rw [hzero]; rfl⟩
    · cases h
      exact ⟨rfl, by rw [hone]; rfl⟩
  · cases h

/-- Settles O3, channel by channel. -/
theorem wireDecodeThenEncode : Obligations.WireDecodeThenEncode := by
  intro c bytes rest i hc h
  cases c with
  | cmd => exact absurd rfl hc
  | outbound => exact encode_of_decodeOutbound h
  | inbound => exact encode_of_decodeInbound h
  | asic => exact encode_of_decodeAsic h

end Sys2Proof

namespace Sys2Proof

/-- Settles O1: the decoder run on the eight byte lists. -/
theorem sampleWordsDecode : Obligations.SampleWordsDecode :=
  ⟨rfl, rfl, rfl, rfl, rfl, rfl, rfl, rfl⟩

end Sys2Proof

namespace Sys2Proof.Machine

/-! ## The op codes and the records of other ones (R96, R194) -/

/-- The first byte of a command's record is its `op`. -/
theorem encode_head {i : Instr} (hi : i.channel = .cmd) : (encode i).head? = some (latchOf i).op := by
  cases i <;> first | rfl | cases hi

/-- The 20 codes of R96, in the order of the commands in `Instr`. -/
def listedOps : List Byte :=
  [0x01, 0x02, 0x03, 0x10, 0x11, 0x12, 0x13, 0x20, 0x21, 0x22, 0x23, 0x24, 0x25, 0x26, 0x27, 0x28, 0x29, 0x2A, 0x30,
    0x31]

/-- No operands are read for a code R96 does not list. -/
theorem operandReader_of_unlisted {op : Byte} (h : op ∉ listedOps) : operandReader op.toNat = none := by
  have hnat : op.toNat ∉ listedOps.map BitVec.toNat := by
    rwa [List.mem_map_of_injective fun _ _ => BitVec.eq_of_toNat_eq]
  unfold operandReader
  split
  case h_21 => rfl
  all_goals
    next hop =>
      rw [hop] at hnat
      exact absurd (by decide) hnat

/-- A record with an unlisted code is accepted in one step (R96, R194). -/
theorem step_unlisted {s : State} {op : Byte} {bytes : List Byte} {later : List HostInput}
    (hop : operandReader op.toNat = none) (hb : s.busy = false) (hh : s.world.host = .cmd (op :: bytes) :: later) :
    step s = .next (State.acceptIllegal op { s with world := { s.world with host := later } }) := by
  have hd : decode .cmd (op :: bytes) = .error (.illegalOp op) := by
    simp only [decode, decodeCommand, hop]
  simp only [step, fetch_cmd hb hh, fetchRecord, hd, tick_accepts hb hh]

/-- The step after it delivers its result, since no command runs that could take another one; a `wait` of the host is
used up. -/
theorem step_illegalRunning {s : State} {r : Rsp} (hr : s.noReset) (hb : s.busy = true) (hl : s.latch.instr = none)
    (hh : s.hung = false) (hd : s.done = some r) :
    ∃ host, step s = .next (State.deliver r { s with world := { s.world with host := host } }) := by
  obtain ⟨host, htick⟩ := tick_eq s
  simp only [step, fetch_busy hr hb, hl, State.illegalStep, htick]
  exact ⟨host, State.resume_deliver _ _ r hh hd⟩

/-- Completing a command whose units are idle writes its result alone. -/
theorem finish_of_idle {s : State} (h : s.unitsIdle = true) (r : Rsp) : s.finish r = { s with done := some r } := by
  obtain ⟨h1, h2, h3⟩ := unitsIdle_iff.1 h
  rw [State.finish, ← h1, ← h2, ← h3]

theorem acceptIllegal_of_idle {s : State} (h : s.unitsIdle = true) (op : Byte) :
    s.acceptIllegal op = { s.accept { op := op } with done := some ⟨.invalidArgument, .none⟩ } :=
  finish_of_idle (s := s.accept { op := op }) h _

/-- Settles O4: acceptance (`step_unlisted`) and delivery (`step_illegalRunning`) of an unlisted code. -/
theorem opCodesAndIllegalOps : Obligations.OpCodesAndIllegalOps := by
  refine ⟨fun i => encode_head, fun _ _ _ _ _ _ _ _ _ _ => rfl, ?_⟩
  intro op bytes later s hop ⟨hb, _, hh, hidle⟩ hhost hr
  have hread := operandReader_of_unlisted hop
  have haccept := step_unlisted hread hb hhost
  obtain ⟨host, hdeliver⟩ := step_illegalRunning
    (s := State.acceptIllegal op { s with world := { s.world with host := later } })
    hr rfl (instr_of_unlisted hread) hh rfl
  rw [acceptIllegal_of_idle (by exact hidle)] at haccept hdeliver
  exact ⟨_, _, haccept, hdeliver, rfl, rfl, ⟨rfl, rfl, hh, hidle⟩, rfl, rfl, rfl, rfl, rfl, rfl, rfl, by simp⟩

/-! ## The wire rows (R100) -/

/-- Settles O45: a wire row needs a running command, one that is about to send, to read or to deliver. -/
theorem wireRowsAreNoCommands : Obligations.WireRowsAreNoCommands := by
  intro i s hi hb
  have hcalling : s.calling = false := by rw [State.calling, hb]; rfl
  cases i with
  | frame | frameI2cWrite | frameI2cRead | frameI2cReadwrite =>
    exact if_neg (by simp [State.sendsFrame, hcalling])
  | psuPacket | psuPktGetHwver | psuPktCfgWdt | psuPktSetV | psuPktGetV | psuPktMeasV =>
    exact if_neg (by simp [State.sendsPacket, hcalling])
  | response => exact if_neg (by simp [State.readsResponse, hcalling])
  | asicPair byte0 bit8 =>
    change execAsicPair byte0 bit8 s = _
    simp [execAsicPair, State.pairResult, hb]
  | _ => exact absurd rfl hi

theorem calling_iff {s : State} : s.calling = true ↔ s.busy = true ∧ s.hung = false ∧ s.done = none := by
  simp [State.calling, and_assoc]

theorem calling_of_runs {i : Instr} {s : State} (h : s.runs i) : s.calling = true := by
  obtain ⟨hb, _, hh, hd⟩ := h
  exact calling_iff.2 ⟨hb, hh, hd⟩

theorem runs_of_calling {i : Instr} {s : State} (h : s.calling = true) (hl : s.latch.instr = some i) : s.runs i := by
  obtain ⟨hb, hh, hd⟩ := calling_iff.1 h
  exact ⟨hb, hl, hh, hd⟩

/-- The state after the `TxWrite` of a transaction that returned. -/
theorem sendStep_answered (s : State) (a : List Byte) :
    (s.answered a).sendStep = { s.afterCall (.write s.txFrame) (s.world.rxIn ++ a) with
                                u1 := { s.u1 with phase := .recv } } := rfl

section Send

variable {s : State} {a : List Byte} (hc : s.calling = true) (hin : s.inBounds = true) (hp : s.u1.phase = .send)
  (hr : s.reply = .returns a)
include hc hin hp hr

/-- A frame row whose frame is the one in `TXBUF` is the step that sends it. -/
theorem execFrameBytes_sends {f : List Byte} (hf : s.txFrame = f) :
    execFrameBytes f s = .next (s.answered a).sendStep := by
  rw [execFrameBytes, if_pos (by simp [State.sendsFrame, hc, hp, hf]), State.sendOnly,
    State.transport_send _ _ _ hin hp, State.call_returns _ _ a hr]

/-- A packet row is the step that sends the frame in `TXBUF`, while the write sequence of its packet runs. -/
theorem execPacketBytes_sends {p : List Byte} (h2 : s.u2.phase = .wr) (h3 : s.u3.phase = .send)
    (hbuf : s.u2.buf.readList 0 s.u2.cnt.toNat = p) : execPacketBytes p s = .next (s.answered a).sendStep := by
  rw [execPacketBytes, if_pos (by simp [State.sendsPacket, hc, hp, h2, h3, hbuf]), State.sendOnly,
    State.transport_send _ _ _ hin hp, State.call_returns _ _ a hr]

end Send

/-- Settles O41. -/
theorem frameRows : Obligations.FrameRows := by
  intro s length txid page command payload a hc hin hp hr hframe t
  have hsent : (s.answered a).sendStep = t := by rw [sendStep_answered, State.txFrame, hframe]
  have hrow : ∀ f, f = frameBytes length txid page command payload → execFrameBytes f s = .next t := fun f hf => by
    rw [execFrameBytes_sends hc hin hp hr (hframe.trans hf.symm), hsent]
  refine ⟨hrow _ rfl, fun h => hrow _ (by rw [h]; rfl), fun h => hrow _ (by rw [h]; rfl),
    fun h => hrow _ (by rw [h]; rfl), fun i hi hl => ?_⟩
  rw [exec_send i s a hi (runs_of_calling hc hl) hin hp hr, hsent]

/-- Settles O42. -/
theorem packetRows : Obligations.PacketRows := by
  intro s a packet hc hin hp h2 h3 hr hbuf t
  have hrow : ∀ p, packet = p → execPacketBytes p s = .next t := fun p hpacket =>
    execPacketBytes_sends hc hin hp hr h2 h3 (hbuf.trans hpacket)
  exact ⟨fun _ _ _ _ _ => hrow _, hrow _, fun _ _ _ => hrow _, fun _ _ _ => hrow _, hrow _, hrow _⟩

/-- Settles O43: the row runs the `after` of the command in the latch, which is the one that runs. -/
theorem responseRow : Obligations.ResponseRow := by
  intro i s byte0 byte1 txid payload a hi hrun hin hp hr hread
  have hexec := exec_recv i s a hi hrun hin hp hr
  have hrow : s.readsResponse ([byte0, byte1, txid] ++ payload) = true := by
    simp only [State.readsResponse, calling_of_runs hrun, hp, hr, decide_true, Bool.true_and]
    exact decide_eq_true hread
  refine ⟨_, ?_, hexec, ?_⟩
  · change execResponse byte0 byte1 txid payload s = _
    obtain ⟨_, hl, _⟩ := hrun
    rw [execResponse, if_pos hrow, hl, State.transport_recv _ _ _ hin hp, State.call_returns _ _ a hr]
    rfl
  · rw [← hread]
    exact congrArg World.hist (sameTop_afterOf i _ (s.afterRead a)).world

/-- The two bytes from an even offset of a list on are one of its pairs. -/
theorem mem_bytePairs {l : List Byte} {k : Nat} {b0 b1 : Byte} (h : 2 * k + 1 < l.length)
    (h0 : l.getD (2 * k) 0 = b0) (h1 : l.getD (2 * k + 1) 0 = b1) : (b0, b1) ∈ bytePairs l := by
  subst h0 h1
  induction k generalizing l with
  | zero =>
    match l, h with
    | b0 :: b1 :: t, _ => exact List.mem_cons_self
  | succ k ih =>
    match l, h with
    | b0 :: b1 :: t, h => exact List.mem_cons_of_mem _ (ih (by simp at h; omega))

section Pair

variable {s : State} {b0 b1 : Byte} (hb : s.busy = true) (hh : s.hung = false)
include hb hh

theorem pairResult_awEnc {words : List Half} {l : List Byte} (hl : s.latch.instr = some (.awEnc words))
    (hd : s.done = some ⟨.ok, .bytes l⟩) (h : (b0, b1) ∈ bytePairs l) :
    s.pairResult b0 b1 = some ⟨.ok, .bytes l⟩ := by
  simp [State.pairResult, hb, hh, hd, hl, h]

theorem pairResult_awDec {bytes : List Byte} {count : Option Half} {w : List Half}
    (hl : s.latch.instr = some (.awDec bytes count)) (hd : s.done = some ⟨.ok, .words w⟩)
    (h : (b0, b1) ∈ bytePairs bytes) : s.pairResult b0 b1 = some ⟨.ok, .words w⟩ := by
  simp [State.pairResult, hb, hh, hd, hl, h]

end Pair

/-- Any command delivers its result in one step. -/
theorem exec_deliver {i : Instr} {s : State} {r : Rsp} (hb : s.busy = true) (hl : s.latch.instr = some i)
    (hh : s.hung = false) (hd : s.done = some r) : exec i s = .next (s.deliver r) := by
  have hi := instr_channel hl
  rw [exec_command i hi, State.runCommand_running _ _ _ _ hb (hl.trans (latchOf_instr i hi).symm),
    State.resume_deliver _ _ r hh hd]

/-- The row of a pair that the waiting result hands over is the step of its delivery. -/
theorem exec_asicPair_delivers {byte0 : Byte} {bit8 : Bool} {s : State} {r : Rsp}
    (h : s.pairResult byte0 (if bit8 then 1 else 0) = some r) : exec (.asicPair byte0 bit8) s = .next (s.deliver r) := by
  change execAsicPair byte0 bit8 s = _
  rw [execAsicPair, h]

/-- Settles O44. -/
theorem asicPairRow : Obligations.AsicPairRow := by
  intro s byte0 bit8 ⟨status, data⟩ hb hh hd hok
  cases hok
  refine ⟨fun words l k hl hdata hk h0 h1 => ?_, fun bytes count w k hl hdata hk h0 h1 => ?_⟩ <;> cases hdata
  · have hrow := exec_asicPair_delivers (pairResult_awEnc hb hh hl hd (mem_bytePairs hk h0 h1))
    exact ⟨hrow, hrow.trans (exec_deliver hb hl hh hd).symm⟩
  · have hrow := exec_asicPair_delivers (pairResult_awDec hb hh hl hd (mem_bytePairs hk h0 h1))
    exact ⟨hrow.trans (exec_deliver hb hl hh hd).symm, _, hrow, rfl⟩

end Sys2Proof.Machine

namespace Sys2Proof.Machine

/-! ## What the block hands to the transport (R70 to R74) -/

/-- A call whose event is `Write(b)` is the write of the frame in `TXBUF`. -/
theorem write_of_transport {i : Instr} {s t : State} {b : List Byte}
    (h : s.transport (afterOf (some i)) (settledOf i) = .next t)
    (hb : t.world.hist = s.world.hist ++ [.write b]) :
    s.u1.phase = .send ∧ b = s.txFrame ∧ t.u1.expTxid = s.u1.expTxid := by
  obtain ⟨_, ⟨_, rfl⟩ | ⟨a, _, ⟨_, rfl⟩ | ⟨hp, rfl⟩ | ⟨_, rfl⟩ | ⟨_, _, rfl⟩⟩⟩ := State.transport_cases _ _ _ h
  · simp at hb
  · simp at hb
  · refine ⟨hp, ?_, rfl⟩
    change s.world.hist ++ [.write s.txFrame] = _ at hb
    simpa [eq_comm] using hb
  · rw [(sameTop_afterOf i _ _).world] at hb
    simp at hb
  · rw [(sameTop_settledOf i _).world] at hb
    simp at hb

/-- A step with the event `Write(b)` is the write of the running command's frame. -/
theorem write_of_step {s t : State} {b : List Byte} (h : step s = .next t)
    (hb : t.world.hist = s.world.hist ++ [.write b]) :
    s.u1.phase = .send ∧ b = s.txFrame ∧ t.u1.expTxid = s.u1.expTxid := by
  rcases step_cases h with ⟨_, rfl⟩ | ⟨_, _, rfl⟩ | ⟨_, _, i, _, _, _, _, _, _, rfl⟩ | ⟨_, _, op, _, _, _, rfl⟩ |
    ⟨_, _, _, rfl⟩ | ⟨r, _, _, _, _, rfl⟩ | ⟨i, _, _, _, _, _, _, hc⟩
  · simp [State.applyReset] at hb
  · simp at hb
  · rw [(sameTop_startOf i _).world] at hb
    simp at hb
  · simp [State.acceptIllegal] at hb
  · simp at hb
  · simp at hb
  · obtain ⟨hp, hframe, hid⟩ := write_of_transport hc (by rw [hb, tick_hist])
    rw [State.tick_u1] at hp hid
    refine ⟨hp, ?_, hid⟩
    rw [hframe, State.txFrame, State.txFrame, State.tick_u1]

/-- Settles O55: what is written is the frame of the invariant (`State.frameOk`). -/
theorem everyWriteIsAFrame : Obligations.EveryWriteIsAFrame := by
  intro s t b hinv hstep hb
  obtain ⟨hp, rfl, hid⟩ := write_of_step hstep hb
  have hframe : isFrame s.u1.expTxid s.txFrame = true := by simpa [State.frameOk, hp] using hinv.frame
  simp only [isFrame, Bool.and_eq_true, decide_eq_true_eq, beq_iff_eq, and_assoc] at hframe
  obtain ⟨hmin, hmax, hlength, h1, h2, h3⟩ := hframe
  exact ⟨hmin, hmax, hlength, h1, h3, h2.trans hid.symm⟩

/-! ## The start of a transaction, by command -/

section Starts

variable {s : State}

theorem wrTxid_latch {o : Option Byte} {l : Latch} (h1 : l.txid = optByte o) (h2 : l.txidV = o.isSome) :
    l.wrTxid = o.getD 0xBC := by
  cases o <;> simp [Latch.wrTxid, h1, h2, optByte, defaultWrTxid]

theorem rdTxid_latch {o : Option Byte} {l : Latch} (h1 : l.txid = optByte o) (h2 : l.txidV = o.isSome) :
    l.rdTxid = o.getD 0xAB := by
  cases o <;> simp [Latch.rdTxid, h1, h2, optByte, defaultRdTxid]

theorem startOf_fcXact {page command txid : Byte} {payload : List Byte} {expLen : Byte} {flush : Bool}
    (hp : payload.length ≤ 250) (hn : expLen.toNat ≤ 250)
    (hl : s.latch = latchOf (.fcXact page command txid payload expLen flush)) :
    startOf (.fcXact page command txid payload expLen flush) s =
      s.awaiting flush (buildFrame page command txid payload) txid expLen.toNat := by
  change startFcXact s = _
  rw [startFcXact, hl, if_neg (by simp [latchOf, maxPayload, maxRspPayload, hp, hn])]
  exact startXact_awaiting ..

theorem startOf_i2cWrb {page addr reg value : Byte} {txid : Option Byte}
    (hl : s.latch = latchOf (.i2cWrb page addr reg value txid)) :
    startOf (.i2cWrb page addr reg value txid) s = s.awaiting s.cfg.flushBeforeWrite
      (buildFrame page 0x20 (txid.getD 0xBC) (wrPayload s.cfg addr reg value)) (txid.getD 0xBC) 1 := by
  have hid : s.latch.wrTxid = txid.getD 0xBC := wrTxid_latch (by rw [hl]; rfl) (by rw [hl]; rfl)
  change s.startWrite s.latch.page s.latch.addr s.latch.reg s.latch.value s.latch.wrTxid = _
  rw [hid, hl, startWrite_awaiting]
  rfl

/-- The frame of I2C_RDB: opcode 0x30 without a register, 0x40 with one (R131). -/
def rdbFrame (c : Config) (page addr : Byte) (reg : Option Byte) (id : Byte) : List Byte :=
  match reg with
  | none => buildFrame page 0x30 id (rdPayload c addr)
  | some g => buildFrame page 0x40 id (rwPayload c addr g)

theorem isFrame_rdbFrame (c : Config) (page addr : Byte) (reg : Option Byte) (id : Byte) :
    isFrame id (rdbFrame c page addr reg id) = true := by
  cases reg <;> exact isFrame_buildFrame (payloadOf_length ..)

theorem startRead_rdbFrame (page addr : Byte) (reg : Option Byte) (id : Byte) :
    s.startRead page addr reg id = s.awaiting true (rdbFrame s.cfg page addr reg id) id 1 := by
  cases reg <;> exact startXact_awaiting ..

theorem startOf_i2cRdb {page addr : Byte} {reg txid : Option Byte}
    (hl : s.latch = latchOf (.i2cRdb page addr reg txid)) :
    startOf (.i2cRdb page addr reg txid) s =
      s.awaiting true (rdbFrame s.cfg page addr reg (txid.getD 0xAB)) (txid.getD 0xAB) 1 := by
  have hid : s.latch.rdTxid = txid.getD 0xAB := rdTxid_latch (by rw [hl]; rfl) (by rw [hl]; rfl)
  have hreg : s.latch.regGiven = reg := regGiven_latch reg s.latch (by rw [hl]; rfl) (by rw [hl]; rfl)
  change s.startRead s.latch.page s.latch.addr s.latch.regGiven s.latch.rdTxid = _
  rw [hid, hreg, hl]
  exact startRead_rdbFrame ..

/-- The acceptance step, once it is known what the command starts with. -/
theorem exec_accept_eq {i : Instr} {t : State} (hi : i.channel = .cmd) (hb : s.busy = false)
    (h : startOf i (s.accepted i) = t) : exec i s = .next t := by
  rw [exec_accept i hi s hb, h]

end Starts

/-- Settles O20: what each command starts with is said by its `startOf` lemma. -/
theorem transactionStarts : Obligations.TransactionStarts := by
  refine ⟨fun c a r v => ⟨fun h => wrPayload_default h a r v, fun h => rdPayload_default h a,
    fun h => rwPayload_default h a r⟩, fun c a r v => ⟨payloadOf_length .., payloadOf_length .., payloadOf_length ..⟩,
    fun s hb => ⟨fun page command txid payload expLen flush => ⟨fun ⟨hp, hn⟩ => ?_, fun hbad => ?_⟩,
      fun page addr reg value txid => ?_, fun page addr txid => ?_, fun page addr reg txid => ?_⟩⟩
  · exact exec_accept_eq rfl hb (startOf_fcXact hp hn rfl)
  · exact exec_accept_eq rfl hb (startOf_bad rfl (by simpa [Instr.badOperand] using hbad) rfl)
  · exact exec_accept_eq rfl hb (startOf_i2cWrb rfl)
  · exact exec_accept_eq rfl hb (startOf_i2cRdb rfl)
  · exact exec_accept_eq rfl hb (startOf_i2cRdb rfl)

/-! ## One transaction as a whole (R115) -/

theorem awaiting_txFrame {s : State} {flush : Bool} {frame : List Byte} {txid : Byte} {n : Nat}
    (hm : s.u1.txbuf.wf = true) (hlen : frame.length ≤ 256) : (s.awaiting flush frame txid n).txFrame = frame := by
  change (s.u1.txbuf.writeList 0 frame).readList 0 (BitVec.ofNat 9 frame.length).toNat = frame
  rw [toNat_ofNat9 _ (by omega), Memory.readList_writeList _ hm]

/-- The registers of a transaction outside any sequence are inside their buffers. -/
theorem inBounds_awaiting {s : State} {flush : Bool} {frame : List Byte} {txid : Byte} {n : Nat}
    (h2 : s.u2.phase = .idle) (hlen : frame.length ≤ 256) (hn : n ≤ 250) :
    (s.awaiting flush frame txid n).inBounds = true := by
  have htx : (BitVec.ofNat 9 frame.length).toNat = frame.length := toNat_ofNat9 _ (by omega)
  have hexp : (BitVec.ofNat 8 n).toNat = n := toNat_ofNat8 _ (by omega)
  simp only [State.inBounds, State.awaiting, htx, hexp, h2, maxRspPayload, hlen, hn, decide_true, Bool.and_self]

theorem execRun_succ {i : Instr} {n : Nat} {s t : State} (h : exec i s = .next t) :
    execRun i (n + 1) s = execRun i n t := by
  rw [execRun, h]

theorem execRun_one {i : Instr} {s t : State} (h : exec i s = .next t) : execRun i 1 s = .next t := by
  rw [execRun_succ h, execRun]

theorem reply_cons {s : State} {r : EnvReply} {later : List EnvReply} (h : s.world.env = r :: later) :
    s.reply = r := by
  rw [State.reply, h]

/-- The last step of a one-transaction command's calls: the checks of its response are its result. -/
theorem exec_recv_oneTransaction {i : Instr} {s : State} {a : List Byte} (ho : i.oneTransaction = true)
    (hrun : s.runs i) (hin : s.inBounds = true) (hp : s.u1.phase = .recv) (hr : s.reply = .returns a) :
    exec i s = .next ((s.afterRead a).withResult
      (responseCheck (s.readable a) s.u1.expTxid s.u1.expLen.toNat (xactData i))) := by
  rw [exec_recv i s a (oneTransaction_calls ho) hrun hin hp hr, afterOf_oneTransaction ho, finishWith_check]

/-- `n` steps of `i` end the command: its result is delivered, the block is idle, and `w` is what stands outside it. -/
def EndsIn (i : Instr) (n : Nat) (s : State) (result : Rsp) (w : World) : Prop :=
  ∃ t, execRun i n s = .next t ∧ t.idle ∧ t.status = result.status.code ∧ t.world = w

theorem EndsIn.step {i : Instr} {n : Nat} {s t : State} {result : Rsp} {w : World} (h : EndsIn i n t result w)
    (hstep : exec i s = .next t) : EndsIn i (n + 1) s result w := by
  obtain ⟨u, hu, hrest⟩ := h
  exact ⟨u, by rw [execRun_succ hstep, hu], hrest⟩

/-- What stands outside the block after `k` calls and these events. -/
def World.after (events : List Event) (k : Nat) (rx : List Byte) (later : List EnvReply) (w : World) : World :=
  { w with env := later, calls := w.calls + k, rxIn := rx, hist := w.hist ++ events }

theorem World.after_after (w : World) (events events' : List Event) (k k' : Nat) (rx rx' : List Byte)
    (later later' : List EnvReply) :
    (w.after events k rx later).after events' k' rx' later' = w.after (events ++ events') (k + k') rx' later' := by
  simp [World.after, Nat.add_assoc]

theorem endsIn_withResult {i : Instr} {s : State} (hb : s.busy = true) (hl : s.latch.instr = some i)
    (hh : s.hung = false) (r : Rsp) :
    EndsIn i 1 (s.withResult r) r (s.world.after [.rsp r] 0 s.world.rxIn s.world.env) :=
  ⟨_, execRun_one (exec_deliver hb hl hh rfl), ⟨rfl, rfl, hh, rfl⟩, rfl, rfl⟩

section Run

variable {i : Instr} {s : State} {txid : Byte} {n : Nat} {later : List EnvReply} {input : List Byte} {result : Rsp}
  (ho : i.oneTransaction = true) (hresult : responseCheck (input.take (n + 3)) txid n (xactData i) = result)
include ho hresult

/-- From its receive phase on, a one-transaction command takes two steps: the read and the delivery. -/
theorem endsIn_recv {a : List Byte} (hrun : s.runs i) (hin : s.inBounds = true) (hp : s.u1.phase = .recv)
    (hid : s.u1.expTxid = txid) (hn : s.u1.expLen.toNat = n) (henv : s.world.env = .returns a :: later)
    (hinput : s.world.rxIn ++ a = input) :
    EndsIn i 2 s result
      (s.world.after [.read (n + 3) (input.take (n + 3)), .rsp result] 1 (input.drop (n + 3)) later) := by
  subst hid hn hinput hresult
  have hrecv := exec_recv_oneTransaction ho hrun hin hp (reply_cons henv)
  obtain ⟨hb, hl, hh, _⟩ := hrun
  have hread : (s.afterRead a).world = s.world.after [.read (s.u1.expLen.toNat + 3) (s.readable a)] 1
      ((s.world.rxIn ++ a).drop (s.u1.expLen.toNat + 3)) later :=
    congrArg (World.after _ 1 _ · s.world) (congrArg List.tail henv)
  have hend := endsIn_withResult (s := s.afterRead a) hb hl hh
    (responseCheck (s.readable a) s.u1.expTxid s.u1.expLen.toNat (xactData i))
  rw [hread, World.after_after] at hend
  exact hend.step hrecv

/-- From its send phase on, it takes three: the write, the read and the delivery. -/
theorem endsIn_send {frame a1 a2 : List Byte} (hrun : s.runs i) (hin : s.inBounds = true) (hp : s.u1.phase = .send)
    (hframe : s.txFrame = frame) (hid : s.u1.expTxid = txid) (hn : s.u1.expLen.toNat = n)
    (henv : s.world.env = .returns a1 :: .returns a2 :: later) (hinput : s.world.rxIn ++ a1 ++ a2 = input) :
    EndsIn i 3 s result
      (s.world.after [.write frame, .read (n + 3) (input.take (n + 3)), .rsp result] 2 (input.drop (n + 3)) later) := by
  subst hframe
  have hsend := exec_send i s a1 (oneTransaction_calls ho) hrun hin hp (reply_cons henv)
  have hworld : (s.answered a1).sendStep.world =
      s.world.after [.write s.txFrame] 1 (s.world.rxIn ++ a1) (.returns a2 :: later) :=
    congrArg (World.after _ 1 _ · s.world) (congrArg List.tail henv)
  have hend := endsIn_recv (s := (s.answered a1).sendStep) ho hresult hrun hin rfl hid hn (by rw [hworld]; rfl) hinput
  rw [hworld, World.after_after] at hend
  exact hend.step hsend

/-- With a flush it takes four. -/
theorem endsIn_flush {frame a0 a1 a2 : List Byte} (hrun : s.runs i) (hin : s.inBounds = true)
    (hp : s.u1.phase = .flush) (hframe : s.txFrame = frame) (hid : s.u1.expTxid = txid) (hn : s.u1.expLen.toNat = n)
    (henv : s.world.env = .returns a0 :: .returns a1 :: .returns a2 :: later) (hinput : a1 ++ a2 = input) :
    EndsIn i 4 s result (s.world.after [.flush, .write frame, .read (n + 3) (input.take (n + 3)), .rsp result] 3
      (input.drop (n + 3)) later) := by
  have hflush := exec_flush i s a0 (oneTransaction_calls ho) hrun hin hp (reply_cons henv)
  have hworld : (s.answered a0).flushStep.world =
      s.world.after [.flush] 1 [] (.returns a1 :: .returns a2 :: later) :=
    congrArg (World.after _ 1 _ · s.world) (congrArg List.tail henv)
  have hend := endsIn_send (s := (s.answered a0).flushStep) ho hresult hrun hin rfl hframe hid hn
    (by rw [hworld]; rfl) (by rw [hworld]; exact hinput)
  rw [hworld, World.after_after] at hend
  exact hend.step hflush

/-- From acceptance on: the flush, if there is one, and then the send phase. -/
theorem endsIn_oneTransaction {flush : Bool} {frame a0 a1 a2 : List Byte} (hidle : s.idle)
    (hm : s.u1.txbuf.wf = true) (hf : isFrame txid frame = true) (hn : n ≤ 250)
    (hstart : startOf i (s.accepted i) = (s.accepted i).awaiting flush frame txid n)
    (henv : s.world.env = (if flush then [.returns a0] else []) ++ [.returns a1, .returns a2] ++ later)
    (hinput : (if flush then [] else s.world.rxIn) ++ a1 ++ a2 = input) :
    EndsIn i (xactCalls flush + 2) s result
      (s.world.after ([.cmd (latchOf i)] ++ xactEvents flush frame (input.take (n + 3)) (n + 3) ++ [.rsp result])
        (xactCalls flush) (input.drop (n + 3)) later) := by
  obtain ⟨hb, hd, hh, hunits⟩ := hidle
  have hi := calls_channel i (oneTransaction_calls ho)
  have hlen256 := (isFrame_length hf).2
  have haccept := exec_accept_eq hi hb hstart
  have hrun : State.runs i ((s.accepted i).awaiting flush frame txid n) := ⟨rfl, latchOf_instr i hi, hh, hd⟩
  have hin : ((s.accepted i).awaiting flush frame txid n).inBounds = true :=
    inBounds_awaiting (s := s.accepted i) (unitsIdle_iff.1 hunits).2.1 hlen256 hn
  have htx : ((s.accepted i).awaiting flush frame txid n).txFrame = frame :=
    awaiting_txFrame (s := s.accepted i) hm hlen256
  have hlen : ((s.accepted i).awaiting flush frame txid n).u1.expLen.toNat = n := toNat_ofNat8 n (by omega)
  have hworld : ((s.accepted i).awaiting flush frame txid n).world =
      s.world.after [.cmd (latchOf i)] 0 s.world.rxIn s.world.env := rfl
  cases flush with
  | false =>
    have hend := endsIn_send ho hresult hrun hin rfl htx rfl hlen henv hinput
    rw [hworld, World.after_after] at hend
    exact hend.step haccept
  | true =>
    have hend := endsIn_flush ho hresult hrun hin rfl htx rfl hlen henv hinput
    rw [hworld, World.after_after] at hend
    exact hend.step haccept

end Run

/-- Settles O23. -/
theorem i2cWrbRun : Obligations.I2cWrbRun := by
  intro page addr reg value txid s a0 a1 a2 later hidle hm henv i id input result
  obtain ⟨t, hrun, ht, hstatus, hworld⟩ := endsIn_oneTransaction (i := i) (n := 1) (input := input)
    (result := result) (flush := s.cfg.flushBeforeWrite) rfl rfl hidle hm (isFrame_buildFrame (payloadOf_length ..))
    (by decide) (startOf_i2cWrb rfl) henv rfl
  refine ⟨t, hrun, ht, hstatus, ?_, ?_, ?_⟩ <;> rw [hworld]
  · simp only [World.after, List.append_assoc]
    rfl
  · rfl
  · rfl

/-- Settles O24. -/
theorem i2cRdbRun : Obligations.I2cRdbRun := by
  intro page addr reg txid s a0 a1 a2 later hidle hm henv i id frame r result
  obtain ⟨t, hrun, ht, hstatus, hworld⟩ := endsIn_oneTransaction (i := i) rfl rfl hidle hm (isFrame_rdbFrame ..)
    (by decide) (startOf_i2cRdb rfl) henv rfl
  refine ⟨t, hrun, ht, hstatus, ?_, ?_, ?_⟩ <;> rw [hworld]
  · cases reg <;> rfl
  · rfl
  · rfl

end Sys2Proof.Machine

namespace Sys2Proof.Machine

/-! ## The bytes of a response at offsets 0 and 1 (R77) -/

/-- The checks look at the length, the byte at offset 2 and the payload. -/
theorem parseResponse_head (a b c d : Byte) (tail : List Byte) (id : Byte) (n : Nat) :
    parseResponse (a :: b :: tail) id n = parseResponse (c :: d :: tail) id n := rfl

theorem finishWith_done_congr (d : List Byte → Data) (q : XactResult) (s u : State) :
    (s.finishWith d q).done = (u.finishWith d q).done := by
  cases q <;> rfl

/-- The result of FC_PARSE is one of its operands, and the two bytes are no part of it. -/
theorem startOf_fcParse_head (a b c d : Byte) (tail : List Byte) (id n : Byte) {s u : State}
    (hs : s.latch = latchOf (.fcParse (a :: b :: tail) id n))
    (hu : u.latch = latchOf (.fcParse (c :: d :: tail) id n)) :
    (startOf (.fcParse (c :: d :: tail) id n) u).done = (startOf (.fcParse (a :: b :: tail) id n) s).done := by
  rw [startOf_fcParse _ _ _ hs, startOf_fcParse _ _ _ hu, parseResponse_head c d a b]
  by_cases hbad : 250 < n.toNat ∨ n.toNat + 3 < (a :: b :: tail).length
  · rw [if_pos hbad, if_pos (by exact hbad)]
    rfl
  · rw [if_neg hbad, if_neg (by exact hbad)]
    exact finishWith_done_congr ..

/-- `s` with another content of `RXBUF`, and something else outside the block. -/
def State.withRx (m : Memory) (w : World) (s : State) : State :=
  { s with u1 := { s.u1 with rxbuf := m }, world := w }

/-- What `f` does is the same whatever `RXBUF` holds and whatever stands outside the block, and it leaves both alone. -/
def IgnoresRx (f : State → State) : Prop := ∀ m w s, f (s.withRx m w) = (f s).withRx m w

theorem ignoresRx_writeEnd (i : Instr) : IgnoresRx (writeEnd i) := by
  intro m w s
  unfold writeEnd
  split <;> rfl

theorem ignoresRx_readEnd (i : Instr) (b : List Byte) : IgnoresRx (readEnd i b) := by
  intro m w s
  unfold readEnd
  split <;> rfl

theorem ignoresRx_writeLoop (i : Instr) (page addr reg : Byte) :
    IgnoresRx (State.writeLoop page addr reg (writeEnd i)) := by
  intro m w s
  by_cases h : s.u2.idx.toNat < s.u2.cnt.toNat
  · rw [State.writeLoop, State.writeLoop, if_pos h, if_pos (by exact h)]
    rfl
  · rw [State.writeLoop, State.writeLoop, if_neg h, if_neg (by exact h)]
    exact ignoresRx_writeEnd i m w s.sqIdle

theorem ignoresRx_readLoop (i : Instr) (page addr : Byte) (reg : Option Byte) :
    IgnoresRx (State.readLoop page addr reg (readEnd i)) := by
  intro m w s
  by_cases h : s.u2.idx.toNat < s.u2.cnt.toNat
  · rw [State.readLoop, State.readLoop, if_pos h, if_pos (by exact h)]
    cases reg <;> rfl
  · rw [State.readLoop, State.readLoop, if_neg h, if_neg (by exact h)]
    exact ignoresRx_readEnd i _ m w s.sqIdle

/-- What a command does with the result of a transaction reads neither `RXBUF` nor anything outside the block. -/
theorem afterOf_withRx {i : Instr} {s : State} (hc : i.calls = true) (hl : s.latch.instr = some i) (q : XactResult)
    (m : Memory) (w : World) : afterOf (some i) q (s.withRx m w) = (afterOf (some i) q s).withRx m w := by
  rcases afterOf_cases hc s.cfg s.u3.phase q with ⟨_, e⟩ | ⟨page, addr, reg, e⟩ | ⟨page, addr, reg, e⟩
  · rw [e, e]
    cases q <;> rfl
  · rw [e s hl rfl rfl, e (s.withRx m w) hl rfl rfl]
    cases q with
    | ok p => exact ignoresRx_writeLoop i page addr reg m w s.sqNext
    | fail e => rfl
  · rw [e s hl rfl rfl, e (s.withRx m w) hl rfl rfl]
    cases q with
    | ok p => exact ignoresRx_readLoop i page addr reg m w (s.sqStore (p.getD 0 0)).sqNext
    | fail e => rfl

/-- A read from an empty input buffer that finds at least two bytes takes them and as many more as it needs. -/
theorem readable_cons {s : State} (h : s.world.rxIn = []) (a b : Byte) (tail : List Byte) :
    s.readable (a :: b :: tail) = a :: b :: tail.take (s.u1.expLen.toNat + 1) := by
  rw [State.readable, h]
  rfl

/-- `s` with another reply to its next call. -/
def State.withReply (r : EnvReply) (s : State) : State :=
  { s with world := { s.world with env := r :: s.world.env.tail } }

/-- Two responses that differ in the first two bytes have the same checks, and leave states that differ in `RXBUF` and
outside the block alone. -/
theorem afterRead_head {s : State} (h : s.world.rxIn = []) (a b c d : Byte) (tail : List Byte) (id : Byte) (n : Nat) :
    parseResponse (s.readable (c :: d :: tail)) id n = parseResponse (s.readable (a :: b :: tail)) id n ∧
    ∀ r, ∃ m w, (s.withReply r).afterRead (c :: d :: tail) = (s.afterRead (a :: b :: tail)).withRx m w := by
  have hab := readable_cons h a b tail
  have hcd := readable_cons h c d tail
  refine ⟨by rw [hab, hcd, parseResponse_head], fun r => ?_⟩
  have hcnt : (s.readable (c :: d :: tail)).length = (s.readable (a :: b :: tail)).length := by
    rw [hab, hcd]
    rfl
  refine ⟨((s.withReply r).afterRead (c :: d :: tail)).u1.rxbuf, ((s.withReply r).afterRead (c :: d :: tail)).world, ?_⟩
  rw [State.withRx, State.afterRead, State.afterRead, ← hcnt]
  rfl

/-- Settles O19: FC_PARSE by the checks alone (`startOf_fcParse_head`), the read by the checks and by what the command
makes of them (`afterRead_head`, `afterOf_withRx`). -/
theorem responseHeadIgnored : Obligations.ResponseHeadIgnored := by
  refine ⟨fun a b c d tail id n s t hb ht => ?_, fun i a b c d tail s t hi hrun hrx hp hr ht => ?_⟩
  · rw [exec_accept _ rfl s hb] at ht
    cases ht
    exact ⟨_, exec_accept _ rfl s hb, startOf_fcParse_head a b c d tail id n rfl rfl⟩
  · have hin : s.inBounds = true := by
      rw [exec_runs i (calls_channel i hi) s hrun, nextOf_calls hi] at ht
      exact (State.transport_cases _ _ _ ht).1
    obtain ⟨hcheck, hafter⟩ := afterRead_head hrx a b c d tail s.u1.expTxid s.u1.expLen.toNat
    obtain ⟨m, w, hafter⟩ := hafter (.returns (c :: d :: tail))
    have hu : exec i (s.withReply (.returns (c :: d :: tail))) = .next (afterOf (some i)
        (parseResponse (s.readable (c :: d :: tail)) s.u1.expTxid s.u1.expLen.toNat)
        ((s.withReply (.returns (c :: d :: tail))).afterRead (c :: d :: tail))) :=
      exec_recv i _ _ hi hrun hin hp rfl
    rw [exec_recv i s _ hi hrun hin hp hr] at ht
    cases ht
    obtain ⟨_, hl, _⟩ := hrun
    rw [hafter, hcheck, afterOf_withRx (s := s.afterRead _) hi hl] at hu
    exact ⟨_, hu, rfl, rfl, rfl, rfl, rfl⟩

end Sys2Proof.Machine

namespace Sys2Proof.Machine

/-! ## FC_BUILD and FC_PARSE -/

/-- Settles O17. -/
theorem fcBuild : Obligations.FcBuild := by
  intro page command txid payload s hb hm i frame
  refine ⟨rfl, fun hp => exec_accept_eq rfl hb ?_, fun hp => exec_accept_eq rfl hb ?_⟩
  · obtain ⟨hp', _⟩ | ⟨_, hstart⟩ := startOf_fcBuild (s := s.accepted i) rfl hm
    · omega
    · exact hstart
  · obtain ⟨_, hstart⟩ | ⟨hp', _⟩ := startOf_fcBuild (s := s.accepted i) rfl hm
    · exact hstart
    · omega

/-- Settles O18: the operand checks are those of `startOf_fcParse`, the others those of `responseCheck`. -/
theorem fcParse : Obligations.FcParse := by
  intro bytes expTxid expLen s hb i
  refine ⟨rfl, exec_accept_eq rfl hb ?_⟩
  rw [startOf_fcParse bytes expTxid expLen rfl, finishWith_check]
  by_cases hn : 250 < expLen.toNat
  · rw [if_pos (.inl hn), if_pos hn]
    rfl
  by_cases hl : expLen.toNat + 3 < bytes.length
  · rw [if_pos (.inr hl), if_neg hn, if_pos hl]
    rfl
  · rw [if_neg (not_or.2 ⟨hn, hl⟩), if_neg hn, if_neg hl]
    simp only [responseCheck, List.length_eq_zero_iff]

/-! ## The transaction of FC_XACT (R115, R116) -/

/-- Settles O21: the three commands differ in the data alone (`xactData`). -/
theorem transactionEnds : Obligations.TransactionEnds := by
  intro s arrived hin hp hr
  exact ⟨fun _ _ _ _ _ _ hrun => exec_recv_oneTransaction rfl hrun hin hp hr,
    fun _ _ _ _ _ hrun => exec_recv_oneTransaction rfl hrun hin hp hr,
    fun _ _ _ _ hrun => exec_recv_oneTransaction rfl hrun hin hp hr⟩

/-- Settles O22. -/
theorem fcXactRun : Obligations.FcXactRun := by
  intro page command txid payload expLen flush s a0 a1 a2 later hidle hm hp hn henv i input r result
  obtain ⟨t, hrun, ht, hstatus, hworld⟩ := endsIn_oneTransaction (i := i) (input := input) (result := result)
    rfl rfl hidle hm (isFrame_buildFrame hp) hn (startOf_fcXact hp hn rfl) henv rfl
  refine ⟨t, hrun, ht, hstatus, ?_, ?_, ?_, ?_⟩ <;> rw [hworld]
  · simp only [World.after, List.append_assoc]
    rfl
  · rfl
  · rfl
  · rfl

/-! ## What the pure commands leave alone -/

/-- No register and no buffer of a unit is written, but for phases that go idle, and no call is made. -/
structure Quiet (s t : State) : Prop where
  u1 : SameU1 s t
  u2 : SameU2 s t
  u3 : SameU3 s t
  world : t.world.env = s.world.env ∧ t.world.calls = s.world.calls ∧ t.world.rxIn = s.world.rxIn

theorem sameU1_of {s t : State} (h : t.u1 = s.u1 ∨ t.u1 = { s.u1 with phase := .idle }) : SameU1 s t := by
  rcases h with h | h
  · exact ⟨.inl (by rw [h]), by rw [h], by rw [h], by rw [h], by rw [h], fun _ => by rw [h], fun _ => by rw [h]⟩
  · exact ⟨.inr (by rw [h]), by rw [h], by rw [h], by rw [h], by rw [h], fun _ => by rw [h], fun _ => by rw [h]⟩

theorem quiet_refl (s : State) : Quiet s s :=
  ⟨sameU1_of (.inl rfl), sameU2_of (.inl rfl), sameU3_of (.inl rfl), ⟨rfl, rfl, rfl⟩⟩

theorem quiet_deliver (r : Rsp) (s : State) : Quiet s (s.deliver r) :=
  ⟨sameU1_of (.inl rfl), sameU2_of (.inl rfl), sameU3_of (.inl rfl), ⟨rfl, rfl, rfl⟩⟩

/-- A command whose result is computed at acceptance, from its operands alone. -/
theorem quiet_accept_finish (l : Latch) (r : Rsp) (s : State) : Quiet s ((s.accept l).finish r) :=
  ⟨sameU1_of (.inr rfl), sameU2_of (.inr rfl), sameU3_of (.inr rfl), ⟨rfl, rfl, rfl⟩⟩

/-- A pure command stores at acceptance, if at all. -/
theorem exec_pure_cases {i : Instr} {s t : State} (hi : i.channel = .cmd) (hc : i.calls = false)
    (h : exec i s = .next t) : t = startOf i (s.accept (latchOf i)) ∨ Quiet s t := by
  rcases exec_command_cases s i hi h with
    ⟨_, rfl⟩ | ⟨_, _, rfl⟩ | ⟨_, _, _, rfl⟩ | ⟨r, _, _, _, _, rfl⟩ | ⟨_, hc', _⟩
  · exact .inl rfl
  · exact .inr (quiet_refl _)
  · exact .inr (quiet_refl _)
  · exact .inr (quiet_deliver r s)
  · exact absurd hc' (by rw [hc]; decide)

theorem storesNothing_pure {i : Instr} (h : i.storesNothing = true) : i.channel = .cmd ∧ i.calls = false := by
  cases i <;> first | exact ⟨rfl, rfl⟩ | exact Bool.noConfusion h

/-- Settles O47. -/
theorem pureFrame : Obligations.PureFrame := by
  intro i s t hi h
  obtain ⟨hcmd, hcalls⟩ := storesNothing_pure hi
  have hq : Quiet s t := by
    rcases exec_pure_cases hcmd hcalls h with rfl | hq
    · obtain ⟨r, _, _, hstart⟩ := startOf_storesNothing hi
      rw [hstart _ rfl]
      exact quiet_accept_finish _ r s
    · exact hq
  exact ⟨hq.u1, hq.u2, hq.u3, hq.world⟩

/-- A list written from index 0 leaves alone what is at its length, held in a 9-bit register, or above. -/
theorem read_writeList_of_length_le {m : Memory} (hm : m.wf = true) {l : List Byte} {n : Nat} (hl : l.length = n)
    (hn : n < 512) {a : Nat} (ha : (BitVec.ofNat 9 n).toNat ≤ a) : (m.writeList 0 l).read a = m.read a := by
  rw [toNat_ofNat9 n hn] at ha
  exact Memory.read_writeList_ge m hm 0 a l (by omega)

/-- A step of FC_BUILD stores nothing, or it is the acceptance that stores the frame (R111). -/
theorem exec_fcBuild_cases {page command txid : Byte} {payload : List Byte} {s t : State} (hm : s.u1.txbuf.wf = true)
    (h : exec (.fcBuild page command txid payload) s = .next t) :
    Quiet s t ∨
    payload.length ≤ 250 ∧ t = ((s.accept (latchOf (.fcBuild page command txid payload))).loadFrame
      (buildFrame page command txid payload)).succeed (.bytes (buildFrame page command txid payload)) := by
  rcases exec_pure_cases rfl rfl h with ht | hq
  · obtain ⟨_, hstart⟩ | ⟨hp, hstart⟩ := startOf_fcBuild (page := page) (cmd := command) (txid := txid)
      (payload := payload) (s := s.accept _) rfl hm
    · exact .inl (ht.trans hstart ▸ quiet_accept_finish _ _ s)
    · exact .inr ⟨hp, ht.trans hstart⟩
  · exact .inl hq

/-- A step of PSU_BUILD stores nothing, or it is the acceptance that stores the packet (R151). -/
theorem exec_psuBuild_cases {opcode : Byte} {fields : List Byte} {s t : State} (hm : s.u3.pkbuf.wf = true)
    (h : exec (.psuBuild opcode fields) s = .next t) :
    Quiet s t ∨
    fields.length ≤ 251 ∧ t = ((s.accept (latchOf (.psuBuild opcode fields))).loadPacket opcode fields).succeed
      (.bytes (buildPacket opcode fields)) := by
  rcases exec_pure_cases rfl rfl h with ht | hq
  · obtain ⟨_, hstart⟩ | ⟨hf, hstart⟩ := startOf_psuBuild (opcode := opcode) (fields := fields)
      (s := s.accept _) rfl hm
    · exact .inl (ht.trans hstart ▸ quiet_accept_finish _ _ s)
    · exact .inr ⟨hf, ht.trans hstart⟩
  · exact .inl hq

/-- Settles O48; the name `buildFrame` is the frame builder's (R110). -/
theorem buildCommandsFrame : Obligations.BuildFrame := by
  refine ⟨fun page command txid payload s t hm h => ?_, fun opcode fields s t hm h => ?_⟩
  · rcases exec_fcBuild_cases hm h with ⟨hu1, hu2, hu3, hworld⟩ | ⟨hp, rfl⟩
    · exact ⟨fun a _ => hu1.txbuf a, hu1.rxbuf, hu1.rxcnt, hu1.expTxid, hu1.expLen, hu2, hu3, hworld⟩
    · have hlen : (buildFrame page command txid payload).length < 512 := by rw [buildFrame_length]; omega
      exact ⟨fun _ => read_writeList_of_length_le hm rfl hlen, fun _ => rfl, rfl, rfl, rfl, sameU2_of (.inr rfl),
        sameU3_of (.inr rfl), rfl, rfl, rfl⟩
  · rcases exec_psuBuild_cases hm h with ⟨hu1, hu2, hu3, hworld⟩ | ⟨hf, rfl⟩
    · exact ⟨fun a _ => hu3.pkbuf a, hu3.rpbuf, hu3.rplen, hu1, hu2, hworld⟩
    · exact ⟨fun _ => read_writeList_of_length_le hm (buildPacket_length opcode fields) (by omega), fun _ => rfl, rfl,
        sameU1_of (.inr rfl), sameU2_of (.inr rfl), rfl, rfl, rfl⟩

end Sys2Proof.Machine

namespace Sys2Proof.Machine

/-! ## The start of a sequence, by command (R134, R135, R152, R153) -/

/-- A command whose operands fail their checks has its result at acceptance (R194). -/
theorem exec_accept_bad {i : Instr} {s : State} (hc : i.calls = true) (hg : i.badOperand = true)
    (hb : s.busy = false) :
    exec i s = .next ((s.accepted i).withResult { status := .invalidArgument, data := .none }) :=
  exec_accept_eq (calls_channel i hc) hb (startOf_bad hc hg rfl)

/-- Settles O25: each command starts its sequence (`startOf_i2cWrs` and the like), which is over at once or begins its
first element (`startWriteSeq_nil`, `startWriteSeq_cons`, `startReadSeq_zero`, `startReadSeq_pos`). -/
theorem sequenceStarts : Obligations.SequenceStarts := by
  intro s hb hm
  refine ⟨fun page addr reg bytes => ⟨fun hbad => ?_, ?_, ?_⟩, fun page addr reg count => ⟨fun hbad => ?_, ?_, ?_⟩,
    fun addr reg packet => ⟨fun hbad => ?_, ?_, ?_⟩, fun addr count => ⟨fun hbad => ?_, ?_, ?_⟩⟩
  · exact exec_accept_bad rfl (decide_eq_true hbad) hb
  · rintro rfl
    exact exec_accept_eq rfl hb (startOf_i2cWrs (Nat.zero_le _) rfl)
  · rintro v tail rfl hlen
    exact exec_accept_eq rfl hb ((startOf_i2cWrs hlen rfl).trans (startWriteSeq_cons _ _ _ _ _ _ _ hm hlen))
  · exact exec_accept_bad rfl (decide_eq_true hbad) hb
  · rintro rfl
    exact exec_accept_eq rfl hb (startOf_i2cRds (Nat.zero_le _) rfl)
  · intro hpos hcount
    exact exec_accept_eq rfl hb ((startOf_i2cRds hcount rfl).trans (startReadSeq_pos _ _ _ _ _ _ hpos hcount))
  · exact exec_accept_bad rfl (decide_eq_true hbad) hb
  · rintro rfl
    exact exec_accept_eq rfl hb (startOf_psuSend (Nat.zero_le _) rfl)
  · rintro v tail rfl hlen
    exact exec_accept_eq rfl hb ((startOf_psuSend hlen rfl).trans (startWriteSeq_cons _ _ _ _ _ _ _ hm hlen))
  · refine exec_accept_bad rfl ?_ hb
    cases count with
    | none => exact absurd hbad (by decide)
    | some c => exact decide_eq_true hbad
  · intro hzero
    refine exec_accept_eq rfl hb ((startOf_psuRecv (by omega) rfl).trans ?_)
    rw [hzero, startReadSeq_zero]
    rfl
  · intro hpos hcount
    exact exec_accept_eq rfl hb ((startOf_psuRecv hcount rfl).trans (startReadSeq_pos _ _ _ _ _ _ hpos hcount))

end Sys2Proof.Machine

namespace Sys2Proof.Machine

/-! ## One transaction of any command (R115) -/

theorem execRun_trans {i : Instr} {m n : Nat} {s t : State} (h : execRun i m s = .next t) :
    execRun i (m + n) s = execRun i n t := by
  induction m generalizing s with
  | zero => cases h; rw [Nat.zero_add]
  | succ m ih =>
    rw [Nat.succ_add, execRun]
    rw [execRun] at h
    cases he : exec i s with
    | next u => rw [he] at h; exact ih h
    | fault => rw [he] at h; cases h
    | refused => rw [he] at h; cases h

/-- `s` after the transaction with this frame, whose calls found `r` and nothing else in the input buffer. -/
def State.afterXact (flush : Bool) (frame : List Byte) (txid : Byte) (n : Nat) (r : List Byte)
    (later : List EnvReply) (s : State) : State :=
  { s with
    u1 := { (s.awaiting flush frame txid n).u1 with
      phase := .idle
      rxbuf := s.u1.rxbuf.writeList 0 r
      rxcnt := BitVec.ofNat 8 r.length }
    world := s.world.after (xactEvents flush frame r (n + 3)) (xactCalls flush) [] later }

/-- The write and the read of a transaction, the input buffer empty before them. -/
theorem execRun_send {i : Instr} {s : State} {frame r : List Byte} {txid : Byte} {n : Nat} {later : List EnvReply}
    (hc : i.calls = true) (hrun : s.runs i) (hin : s.inBounds = true) (hp : s.u1.phase = .send)
    (hframe : s.txFrame = frame) (hid : s.u1.expTxid = txid) (hn : s.u1.expLen.toNat = n) (hrx : s.world.rxIn = [])
    (hr : r.length ≤ n + 3) (henv : s.world.env = .returns [] :: .returns r :: later) :
    execRun i 2 s = .next (afterOf (some i) (parseResponse r txid n)
      { s with
        u1 := { s.u1 with phase := .idle, rxbuf := s.u1.rxbuf.writeList 0 r, rxcnt := BitVec.ofNat 8 r.length }
        world := s.world.after [.write frame, .read (n + 3) r] 2 [] later }) := by
  subst hframe hid hn
  have hsend := exec_send i s [] hc hrun hin hp (reply_cons henv)
  have hreply : (s.answered []).sendStep.reply = .returns r := reply_cons (later := later) (by simp [henv])
  have hread : (s.answered []).sendStep.readable r = r := by simp [State.readable, hrx, List.take_of_length_le hr]
  have hrecv := exec_recv i (s.answered []).sendStep r hc hrun hin rfl hreply
  rw [execRun_succ hsend, execRun_one hrecv, State.afterRead, hread]
  simp [State.afterCall, World.after, henv, hrx, List.drop_of_length_le hr]
  rfl

/-- The registers of a transaction are inside their buffers, those of a sequence it is an element of being so. -/
theorem inBounds_awaiting_of {s : State} {flush : Bool} {frame : List Byte} {txid : Byte} {n : Nat}
    (hlen : frame.length ≤ 256) (hn : n ≤ 250)
    (h2 : s.u2.phase = .wr ∧ s.u2.idx.toNat < s.u2.cnt.toNat ∧ s.u2.cnt.toNat ≤ 257 ∨
      s.u2.phase = .rd ∧ s.u2.idx.toNat < s.u2.cnt.toNat ∧ s.u2.cnt.toNat ≤ 255) :
    (s.awaiting flush frame txid n).inBounds = true := by
  have htx : (BitVec.ofNat 9 frame.length).toNat = frame.length := toNat_ofNat9 _ (by omega)
  have hexp : (BitVec.ofNat 8 n).toNat = n := toNat_ofNat8 _ (by omega)
  rcases h2 with ⟨h2, hlt, hcnt⟩ | ⟨h2, hlt, hcnt⟩ <;>
    simp only [State.inBounds, State.awaiting, htx, hexp, h2, hlen, hn, hlt, hcnt, maxRspPayload, maxWrSeq, maxRdSeq,
      decide_true, Bool.and_self]

/-- A whole transaction, answered by `r`, with nothing else in the input buffer. -/
theorem execRun_awaiting {i : Instr} {s : State} {flush : Bool} {frame r : List Byte} {txid : Byte} {n : Nat}
    {later : List EnvReply} (hc : i.calls = true) (hrun : s.runs i)
    (hin : (s.awaiting flush frame txid n).inBounds = true) (hm : s.u1.txbuf.wf = true)
    (hlen : frame.length ≤ 256) (hn : n ≤ 250) (hrx : flush = true ∨ s.world.rxIn = []) (hr : r.length ≤ n + 3)
    (henv : s.world.env = xactReplies flush r ++ later) :
    execRun i (xactCalls flush) (s.awaiting flush frame txid n) =
      .next (afterOf (some i) (parseResponse r txid n) (s.afterXact flush frame txid n r later)) := by
  have htx : (s.awaiting flush frame txid n).txFrame = frame := awaiting_txFrame hm hlen
  have hexp : (s.awaiting flush frame txid n).u1.expLen.toNat = n := toNat_ofNat8 n (by omega)
  cases flush with
  | false =>
    exact execRun_send (s := s.awaiting false frame txid n) hc hrun hin rfl htx rfl hexp
      (hrx.resolve_left (by decide)) hr henv
  | true =>
    have hflush := exec_flush i (s.awaiting true frame txid n) [] hc hrun hin rfl (reply_cons henv)
    have hsend := execRun_send (s := ((s.awaiting true frame txid n).answered []).flushStep) hc hrun hin rfl htx rfl
      hexp rfl hr (congrArg List.tail henv)
    have hworld : ((s.awaiting true frame txid n).answered []).flushStep.world =
        s.world.after [.flush] 1 [] s.world.env.tail := rfl
    rw [hworld, World.after_after] at hsend
    exact (execRun_succ hflush).trans hsend

end Sys2Proof.Machine

namespace Sys2Proof.Machine

/-! ## A sequence of any command (R134, R135) -/

/-- What a sequence does, element by element: whether each flushes, its transaction id, its frame by offset, and what
`SQBUF` holds when these responses have been read; what it leads to when all are good, and the status it fails with. -/
structure SeqPlan where
  flush : Bool
  id : Byte
  frame : Nat → List Byte
  buf : List (List Byte) → Memory
  finish : List (List Byte) → State → State
  failure : Status → Status

/-- The write sequence of `i` that is loaded in `s` (R134): it writes no byte of `SQBUF`. -/
def writePlan (i : Instr) (page addr reg : Byte) (s : State) : SeqPlan where
  flush := s.cfg.flushBeforeWrite
  id := 0xBC
  frame k := writeFrame s.cfg page addr reg (s.u2.buf.read k)
  buf _ := s.u2.buf
  finish _ := writeEnd i
  failure := writeFailure i

/-- The read sequence of `i` that is loaded in `s` (R135): the bytes read stand in `SQBUF` from index 0 on. -/
def readPlan (i : Instr) (page addr : Byte) (reg : Option Byte) (s : State) : SeqPlan where
  flush := true
  id := 0xAB
  frame _ := readFrame s.cfg page addr reg
  buf rs := s.u2.buf.writeList 0 (dataBytes rs)
  finish rs := readEnd i (dataBytes rs)
  failure := readFailure i

/-- The events of a sequence whose elements are answered by `rs`. -/
def SeqPlan.events (p : SeqPlan) (rs : List (List Byte)) : List Event :=
  (rs.mapIdx fun k r => xactEvents p.flush (p.frame k) r 4).flatten

theorem SeqPlan.events_concat (p : SeqPlan) (rs : List (List Byte)) (r : List Byte) :
    p.events (rs ++ [r]) = p.events rs ++ xactEvents p.flush (p.frame rs.length) r 4 := by
  simp [SeqPlan.events, List.mapIdx_append]

/-- Before its first element a sequence has no event and has made no call. -/
theorem SeqPlan.world_start (p : SeqPlan) {w : World} {later : List EnvReply}
    (h : w.env = seqReplies p.flush [] ++ later) :
    w = w.after (p.events []) (xactCalls p.flush * [].length (α := List Byte)) w.rxIn later := by
  rw [← show w.env = later from h]
  simp [World.after, SeqPlan.events]

theorem seqReplies_concat (flush : Bool) (rs : List (List Byte)) (r : List Byte) :
    seqReplies flush (rs ++ [r]) = seqReplies flush rs ++ xactReplies flush r := by
  simp [seqReplies]

/-- `s` is a state of the sequence that `i` began in `s0`, after the responses `rs`. -/
structure InSeq (p : SeqPlan) (i : Instr) (s0 : State) (rs : List (List Byte)) (s : State) : Prop where
  runs : s.runs i
  cfg : s.cfg = s0.cfg
  u2 : s.u2 = { s0.u2 with idx := BitVec.ofNat 9 rs.length, buf := p.buf rs }
  u3 : s.u3 = s0.u3
  txbuf : s.u1.txbuf.wf = true

theorem InSeq.instr {p : SeqPlan} {i : Instr} {s0 s : State} {rs : List (List Byte)} (h : InSeq p i s0 rs s) :
    s.latch.instr = some i := by
  obtain ⟨_, hl, _⟩ := h.runs
  exact hl

/-- `i` goes through the sequence of this plan from `s0` on: a response that passes its checks leads to the next element
or, the last one, to the end of the sequence; one that fails ends it, `SQ_IDX` left at the failing offset (R21). -/
structure SeqPlan.Follows (p : SeqPlan) (i : Instr) (s0 : State) : Prop where
  calls : i.calls = true
  start : InSeq p i s0 [] s0
  frames : ∀ k, isFrame p.id (p.frame k) = true
  bounds : s0.u2.phase = .wr ∧ s0.u2.cnt.toNat ≤ 257 ∨ s0.u2.phase = .rd ∧ s0.u2.cnt.toNat ≤ 255
  next : ∀ rs r t, InSeq p i s0 rs t → rs.length + 1 < s0.u2.cnt.toNat →
    afterOf (some i) (.ok (r.drop 3)) t = State.awaiting p.flush (p.frame (rs.length + 1)) p.id 1
      { t with u2 := { s0.u2 with idx := BitVec.ofNat 9 (rs.length + 1), buf := p.buf (rs ++ [r]) } }
  last : ∀ rs r t, InSeq p i s0 rs t → rs.length + 1 = s0.u2.cnt.toNat →
    afterOf (some i) (.ok (r.drop 3)) t = p.finish (rs ++ [r])
      { t with u2 := { s0.u2 with phase := .idle, idx := BitVec.ofNat 9 (rs.length + 1), buf := p.buf (rs ++ [r]) } }
  fail : ∀ rs e t, InSeq p i s0 rs t →
    afterOf (some i) (.fail e) t = State.fail (p.failure e) { t with u2 := { t.u2 with phase := .idle } }

/-- The next element of the sequence begins in `s`. -/
structure AtElement (p : SeqPlan) (i : Instr) (s0 : State) (rs : List (List Byte)) (later : List EnvReply)
    (s : State) : Prop extends InSeq p i s0 rs s where
  rxIn : p.flush = true ∨ s.world.rxIn = []
  world : s.world = s0.world.after (p.events rs) (xactCalls p.flush * rs.length) s.world.rxIn later

/-- The response to the element after those that `rs` answers is read, and it was `r`. -/
structure AfterElement (p : SeqPlan) (i : Instr) (s0 : State) (rs : List (List Byte)) (r : List Byte)
    (later : List EnvReply) (s : State) : Prop extends InSeq p i s0 rs s where
  fc : s.u1.phase = .idle
  world : s.world = s0.world.after (p.events (rs ++ [r])) (xactCalls p.flush * (rs.length + 1)) [] later

/-- The sequence is over: its elements were answered by `rs`, and `stored` are the responses that passed the checks. -/
structure SeqOver (p : SeqPlan) (i : Instr) (s0 : State) (stored rs : List (List Byte)) (later : List EnvReply)
    (s : State) : Prop where
  runs : s.runs i
  cfg : s.cfg = s0.cfg
  u2 : s.u2 = { s0.u2 with phase := .idle, idx := BitVec.ofNat 9 stored.length, buf := p.buf stored }
  u3 : s.u3 = s0.u3
  fc : s.u1.phase = .idle
  txbuf : s.u1.txbuf.wf = true
  rxIn : p.flush = true ∨ s.world.rxIn = []
  world : s.world = s0.world.after (p.events rs) (xactCalls p.flush * rs.length) s.world.rxIn later

theorem goodResponse.length_le {id : Byte} {r : List Byte} (h : goodResponse id r) : r.length ≤ 4 := by
  obtain ⟨hlen, _⟩ := h
  exact hlen.le

/-- A four-byte response with this id is what the checks pass, and nothing else that fits the read (R83, R113). -/
theorem goodResponse_iff_check {id : Byte} {r : List Byte} (hr : r.length ≤ 4) (d : List Byte → Data) :
    goodResponse id r ↔ (responseCheck r id 1 d).status = .ok := by
  unfold goodResponse responseCheck
  split_ifs with h0 h4 h2
  · simp [h0]
  · exact iff_of_false (fun h => by omega) (by simp)
  · exact iff_of_false (fun h => h2 h.2) (by simp)
  · exact iff_of_true ⟨by omega, not_not.1 h2⟩ rfl

theorem parseResponse_good {id : Byte} {r : List Byte} (h : goodResponse id r) :
    parseResponse r id 1 = .ok (r.drop 3) :=
  parseResponse_ok (d := fun _ => .none) ((goodResponse_iff_check h.length_le _).1 h)

section Follows

variable {p : SeqPlan} {i : Instr} {s0 s : State} {rs : List (List Byte)} {r : List Byte} {later : List EnvReply}
  (hf : p.Follows i s0)
include hf

/-- An element is one complete transaction, in the registers of the sequence. -/
theorem SeqPlan.Follows.element (hs : AtElement p i s0 rs (xactReplies p.flush r ++ later) s) (hr : r.length ≤ 4)
    (hlt : rs.length < s0.u2.cnt.toNat) :
    ∃ t, execRun i (xactCalls p.flush) (s.awaiting p.flush (p.frame rs.length) p.id 1) =
      .next (afterOf (some i) (parseResponse r p.id 1) t) ∧ AfterElement p i s0 rs r later t := by
  have hlen := (isFrame_length (hf.frames rs.length)).2
  have hcnt : s0.u2.cnt.toNat < 512 := s0.u2.cnt.isLt
  have hin : (s.awaiting p.flush (p.frame rs.length) p.id 1).inBounds = true := by
    refine inBounds_awaiting_of hlen (by decide) ?_
    have hidx : (BitVec.ofNat 9 rs.length).toNat < s0.u2.cnt.toNat := by rwa [toNat_ofNat9 _ (by omega)]
    rw [hs.u2]
    exact hf.bounds.imp (fun ⟨h, hc⟩ => ⟨h, hidx, hc⟩) (fun ⟨h, hc⟩ => ⟨h, hidx, hc⟩)
  refine ⟨_, execRun_awaiting hf.calls hs.runs hin hs.txbuf hlen (by decide) hs.rxIn hr (later := later) ?_,
    ⟨hs.runs, hs.cfg, hs.u2, hs.u3, Memory.wf_writeList _ hs.txbuf _ _⟩, rfl, ?_⟩
  · rw [hs.world]
    rfl
  · change s.world.after _ _ [] later = _
    rw [hs.world, World.after_after, SeqPlan.events_concat]
    rfl

/-- After a good response that is not the last one the next element begins. -/
theorem SeqPlan.Follows.advance (hs : AtElement p i s0 rs (xactReplies p.flush r ++ later) s)
    (hr : goodResponse p.id r) (hlt : rs.length + 1 < s0.u2.cnt.toNat) :
    ∃ t, execRun i (xactCalls p.flush) (s.awaiting p.flush (p.frame rs.length) p.id 1) =
      .next (t.awaiting p.flush (p.frame (rs.length + 1)) p.id 1) ∧ AtElement p i s0 (rs ++ [r]) later t := by
  obtain ⟨t, hrun, ht⟩ := hf.element hs hr.length_le (by omega)
  rw [parseResponse_good hr, hf.next rs r t ht.toInSeq hlt] at hrun
  have hrx : t.world.rxIn = [] := congrArg World.rxIn ht.world
  refine ⟨_, hrun, ⟨ht.runs, ht.cfg, ?_, ht.u3, ht.txbuf⟩, .inr hrx, ?_⟩ <;> rw [List.length_append]
  · rfl
  · change t.world = _
    rw [hrx]
    exact ht.world

/-- After good responses that are not all of the sequence's the next element begins. -/
theorem SeqPlan.Follows.reach (hrx : p.flush = true ∨ s0.world.rxIn = []) (hgood : ∀ r ∈ rs, goodResponse p.id r)
    (hlt : rs.length < s0.u2.cnt.toNat) (henv : s0.world.env = seqReplies p.flush rs ++ later) :
    ∃ s, execRun i (xactCalls p.flush * rs.length) (s0.awaiting p.flush (p.frame 0) p.id 1) =
      .next (s.awaiting p.flush (p.frame rs.length) p.id 1) ∧ AtElement p i s0 rs later s := by
  induction rs using List.reverseRecOn generalizing later with
  | nil => exact ⟨s0, rfl, hf.start, hrx, p.world_start henv⟩
  | append_singleton rs r ih =>
    rw [List.length_append] at hlt ⊢
    rw [seqReplies_concat, List.append_assoc] at henv
    obtain ⟨s, hrun, hs⟩ := ih (fun q hq => hgood q (by simp [hq])) (by omega) henv
    obtain ⟨t, hrun', ht⟩ := hf.advance hs (hgood r (by simp)) hlt
    exact ⟨t, (execRun_trans hrun).trans hrun', ht⟩

/-- A sequence up to any response that follows good ones: what the command makes of it is still to come. -/
theorem SeqPlan.Follows.run (hrx : p.flush = true ∨ s0.world.rxIn = []) (hgood : ∀ r ∈ rs, goodResponse p.id r)
    (hlt : rs.length < s0.u2.cnt.toNat) (hr : r.length ≤ 4)
    (henv : s0.world.env = seqReplies p.flush (rs ++ [r]) ++ later) :
    ∃ t, execRun i (xactCalls p.flush * (rs.length + 1)) (s0.awaiting p.flush (p.frame 0) p.id 1) =
      .next (afterOf (some i) (parseResponse r p.id 1) t) ∧ AfterElement p i s0 rs r later t := by
  rw [seqReplies_concat, List.append_assoc] at henv
  obtain ⟨s, hrun, hs⟩ := hf.reach hrx hgood hlt henv
  obtain ⟨t, hrun', ht⟩ := hf.element hs hr hlt
  exact ⟨t, (execRun_trans hrun).trans hrun', ht⟩

/-- Good responses to all elements complete the sequence. -/
theorem SeqPlan.Follows.completes (hrx : p.flush = true ∨ s0.world.rxIn = []) (hgood : ∀ r ∈ rs, goodResponse p.id r)
    (hne : rs ≠ []) (hall : rs.length = s0.u2.cnt.toNat) (henv : s0.world.env = seqReplies p.flush rs ++ later) :
    ∃ t, execRun i (xactCalls p.flush * rs.length) (s0.awaiting p.flush (p.frame 0) p.id 1) =
      .next (p.finish rs t) ∧ SeqOver p i s0 rs rs later t := by
  obtain ⟨init, r, rfl⟩ := rs.eq_nil_or_concat'.resolve_left hne
  have hr := hgood r (by simp)
  rw [List.length_append] at hall ⊢
  obtain ⟨t, hrun, ht⟩ := hf.run hrx (fun q hq => hgood q (by simp [hq])) (by simp at hall; omega) hr.length_le henv
  rw [parseResponse_good hr, hf.last init r t ht.toInSeq hall] at hrun
  have hrx' : t.world.rxIn = [] := congrArg World.rxIn ht.world
  exact ⟨_, hrun, ht.runs, ht.cfg, by rw [List.length_append]; rfl, ht.u3, ht.fc, ht.txbuf,
    .inr hrx', by rw [hrx', List.length_append]; exact ht.world⟩

/-- A bad response after good ones ends the sequence: the elements after it are never begun. -/
theorem SeqPlan.Follows.fails (hrx : p.flush = true ∨ s0.world.rxIn = []) (hgood : ∀ r ∈ rs, goodResponse p.id r)
    (hlt : rs.length < s0.u2.cnt.toNat) (hr : r.length ≤ 4) (hbad : ¬ goodResponse p.id r)
    (henv : s0.world.env = seqReplies p.flush (rs ++ [r]) ++ later) :
    (responseCheck r p.id 1 fun _ => .none).status ≠ .ok ∧
    ∃ t, execRun i (xactCalls p.flush * (rs.length + 1)) (s0.awaiting p.flush (p.frame 0) p.id 1) =
      .next (t.fail (p.failure (responseCheck r p.id 1 fun _ => .none).status)) ∧
      SeqOver p i s0 rs (rs ++ [r]) later t := by
  have hcheck := mt (goodResponse_iff_check hr fun _ => .none).2 hbad
  obtain ⟨t, hrun, ht⟩ := hf.run hrx hgood hlt hr henv
  rw [parseResponse_fail hcheck, hf.fail rs _ t ht.toInSeq] at hrun
  have hrx' : t.world.rxIn = [] := congrArg World.rxIn ht.world
  exact ⟨hcheck, _, hrun, ht.runs, ht.cfg, by rw [ht.u2], ht.u3, ht.fc, ht.txbuf,
    .inr hrx', by rw [hrx', List.length_append]; exact ht.world⟩

end Follows

/-! ### The two kinds of sequences -/

theorem InSeq.regs {p : SeqPlan} {i : Instr} {s0 s : State} {rs : List (List Byte)} (h : InSeq p i s0 rs s)
    (hlt : rs.length < s0.u2.cnt.toNat) : s.u2.idx.toNat = rs.length ∧ s.u2.cnt = s0.u2.cnt := by
  rw [h.u2]
  exact ⟨toNat_ofNat9 _ (by omega), rfl⟩

theorem Memory.writeList_concat (m : Memory) (a : Nat) (l : List Byte) (v : Byte) :
    m.writeList a (l ++ [v]) = (m.writeList a l).write (a + l.length) v := by
  induction l generalizing m a with
  | nil => rfl
  | cons w l ih =>
    rw [List.cons_append, Memory.writeList, ih, Memory.writeList, List.length_cons, Nat.add_right_comm, Nat.add_assoc]

@[simp] theorem dataBytes_length (rs : List (List Byte)) : (dataBytes rs).length = rs.length := List.length_map ..

theorem dataBytes_concat (rs : List (List Byte)) (r : List Byte) :
    dataBytes (rs ++ [r]) = dataBytes rs ++ [r.getD 3 0] := List.map_append

/-- The byte of the next response goes behind those of the ones before. -/
theorem write_dataBytes (m : Memory) (rs : List (List Byte)) (r : List Byte) :
    (m.writeList 0 (dataBytes rs)).write rs.length ((r.drop 3).getD 0 0) = m.writeList 0 (dataBytes (rs ++ [r])) := by
  rw [dataBytes_concat, Memory.writeList_concat, dataBytes_length, Nat.zero_add, getD_drop]

section Plans

variable {i : Instr} {s : State} (hrun : s.runs i) (hm : s.u1.txbuf.wf = true) (hidx : s.u2.idx = 0)
include hrun hm hidx

theorem writePlan_follows {page addr reg : Byte} (hw : writeSeqOf s.cfg i = some (page, addr, reg))
    (h2 : s.u2.phase = .wr) (hcnt : s.u2.cnt.toNat ≤ 257) (h3 : (exchangeOf i).isSome → s.u3.phase ≠ .recv) :
    (writePlan i page addr reg s).Follows i s := by
  have hafter : ∀ {rs t} (q : XactResult), InSeq (writePlan i page addr reg s) i s rs t → afterOf (some i) q t =
      t.afterWriteElem page addr reg (writeEnd i) (fun e t => t.fail (writeFailure i e)) q :=
    fun q ht => afterOf_write (ht.cfg ▸ hw) ht.instr (ht.u3 ▸ h3) q
  refine ⟨writeSeqOf_calls hw, ⟨hrun, rfl, ?_, rfl, hm⟩, fun k => isFrame_writeFrame .., .inl ⟨h2, hcnt⟩,
    fun rs r t ht hmore => ?_, fun rs r t ht hlast => ?_, fun rs e t ht => hafter _ ht⟩
  · change s.u2 = { s.u2 with idx := 0 }
    rw [← hidx]
  · obtain ⟨hk, hn⟩ := ht.regs (by omega)
    rw [hafter _ ht, afterWriteElem_more _ _ _ _ _ _ _ (by rwa [hk, hn]) (by rwa [hn]), hk, ht.cfg, ht.u2,
      BitVec.ofNat_add]
    rfl
  · obtain ⟨hk, hn⟩ := ht.regs (by omega)
    rw [hafter _ ht, afterWriteElem_last _ _ _ _ _ _ _ (by rwa [hk, hn]) (by rwa [hn]), ht.u2, BitVec.ofNat_add]
    rfl

theorem readPlan_follows {page addr : Byte} {reg : Option Byte} (hr : readSeqOf s.cfg i = some (page, addr, reg))
    (h2 : s.u2.phase = .rd) (hcnt : s.u2.cnt.toNat ≤ 255) (h3 : (exchangeOf i).isSome → s.u3.phase = .recv)
    (hbuf : s.u2.buf.wf = true) : (readPlan i page addr reg s).Follows i s := by
  have hafter : ∀ {rs t} (q : XactResult), InSeq (readPlan i page addr reg s) i s rs t → afterOf (some i) q t =
      t.afterReadElem page addr reg (readEnd i) (fun e t => t.fail (readFailure i e)) q :=
    fun q ht => afterOf_read (ht.cfg ▸ hr) ht.instr (ht.u3 ▸ h3) q
  have hstore : ∀ {rs r t}, InSeq (readPlan i page addr reg s) i s rs t → rs.length < s.u2.cnt.toNat →
      t.u2.buf.write rs.length ((r.drop 3).getD 0 0) = s.u2.buf.writeList 0 (dataBytes (rs ++ [r])) := by
    intro rs r t ht hlt
    rw [ht.u2]
    exact write_dataBytes ..
  refine ⟨readSeqOf_calls hr, ⟨hrun, rfl, ?_, rfl, hm⟩, fun k => isFrame_readFrame .., .inr ⟨h2, hcnt⟩,
    fun rs r t ht hmore => ?_, fun rs r t ht hlast => ?_, fun rs e t ht => hafter _ ht⟩
  · change s.u2 = { s.u2 with idx := 0 }
    rw [← hidx]
  · obtain ⟨hk, hn⟩ := ht.regs (by omega)
    rw [hafter _ ht, afterReadElem_more _ _ _ _ _ _ _ (by rwa [hk, hn]) (by rwa [hn]), hk, hstore ht (by omega), ht.cfg,
      ht.u2, BitVec.ofNat_add]
    rfl
  · obtain ⟨hk, hn⟩ := ht.regs (by omega)
    have hread : (s.u2.buf.writeList 0 (dataBytes (rs ++ [r]))).readList 0 s.u2.cnt.toNat = dataBytes (rs ++ [r]) := by
      rw [← hlast, ← List.length_singleton (a := r), ← List.length_append, ← dataBytes_length,
        Memory.readList_writeList _ hbuf]
    rw [hafter _ ht, afterReadElem_last _ _ _ _ _ _ _ (by rwa [hk, hn]) (by rwa [hn]), hk, hstore ht (by omega), hn,
      hread, ht.u2, BitVec.ofNat_add]
    rfl

end Plans

/-- The first bytes of a list written from index 0 on. -/
theorem read_writeList_zero {m : Memory} (hm : m.wf = true) {l : List Byte} {k : Nat} (hk : k < l.length) :
    (m.writeList 0 l).read k = l.getD k 0 := by
  rw [← Memory.read_writeList m hm 0 k l hk, Nat.zero_add]

/-- The events of the write sequence of a list, its bytes read off `SQBUF`. -/
theorem writePlan_events {i : Instr} {page addr reg : Byte} {s : State} {b : List Byte} {rs : List (List Byte)}
    (hbuf : s.u2.buf.wf = true) (hlen : rs.length ≤ b.length) :
    (writePlan i page addr reg (s.loadWriteSeq b)).events rs = writeSeqEvents s.cfg page addr reg b rs := by
  refine congrArg List.flatten (List.ext_getElem (by simp [hlen]) fun k h _ => ?_)
  rw [List.length_mapIdx] at h
  rw [List.getElem_mapIdx, List.getElem_zipWith]
  change xactEvents _ (writeFrame s.cfg page addr reg ((s.u2.buf.writeList 0 b).read k)) _ _ = _
  rw [read_writeList_zero hbuf (by omega), List.getD_eq_getElem _ _ (by omega)]
  rfl

theorem readPlan_events (i : Instr) (page addr : Byte) (reg : Option Byte) (s : State) (rs : List (List Byte)) :
    (readPlan i page addr reg s).events rs = readSeqEvents s.cfg page addr reg rs := by
  refine congrArg List.flatten (List.ext_getElem (by simp) fun k _ _ => ?_)
  rw [List.getElem_mapIdx, List.getElem_map]
  rfl

/-! ### A sequence from its start on -/

section WriteSeq

variable {i : Instr} {s : State} {page addr reg : Byte} {b : List Byte} {rs : List (List Byte)}
  {later : List EnvReply} (hrun : s.runs i) (hm : s.u1.txbuf.wf = true)
  (hw : writeSeqOf s.cfg i = some (page, addr, reg)) (h3 : (exchangeOf i).isSome → s.u3.phase ≠ .recv)
  (hlen : b.length ≤ 257) (hrx : s.cfg.flushBeforeWrite = true ∨ s.world.rxIn = [])
  (hgood : ∀ r ∈ rs, goodResponse 0xBC r)

theorem startWriteSeq_awaiting (page addr reg : Byte) (s : State) (hne : b ≠ []) (hlen : b.length ≤ 257) :
    s.startWriteSeq page addr reg b (writeEnd i) = (s.loadWriteSeq b).awaiting s.cfg.flushBeforeWrite
      ((writePlan i page addr reg (s.loadWriteSeq b)).frame 0) 0xBC 1 := by
  rw [State.startWriteSeq, State.writeLoop, if_pos, startWrite_awaiting]
  · rfl
  · change 0 < (BitVec.ofNat 9 b.length).toNat
    rw [toNat_ofNat9 _ (by omega)]
    exact List.length_pos_iff.2 hne

include hrun hm hw h3 hlen

theorem loadWriteSeq_follows :
    (writePlan i page addr reg (s.loadWriteSeq b)).Follows i (s.loadWriteSeq b) :=
  writePlan_follows (s := s.loadWriteSeq b) hrun hm rfl hw rfl
    (by change (BitVec.ofNat 9 b.length).toNat ≤ 257; rwa [toNat_ofNat9 _ (by omega)]) h3

include hrx hgood

/-- A write sequence all of whose elements are answered well. -/
theorem writeSeq_completes (h1 : s.u1.phase = .idle) (hall : rs.length = b.length)
    (henv : s.world.env = seqReplies s.cfg.flushBeforeWrite rs ++ later) :
    ∃ t, execRun i (xactCalls s.cfg.flushBeforeWrite * b.length) (s.startWriteSeq page addr reg b (writeEnd i)) =
      .next (writeEnd i t) ∧
      SeqOver (writePlan i page addr reg (s.loadWriteSeq b)) i (s.loadWriteSeq b) rs rs later t := by
  have hf := loadWriteSeq_follows hrun hm hw h3 hlen
  have hcnt : (s.loadWriteSeq b).u2.cnt.toNat = b.length := toNat_ofNat9 _ (by omega)
  rcases eq_or_ne rs [] with rfl | hne
  · obtain rfl := List.eq_nil_of_length_eq_zero hall.symm
    exact ⟨_, rfl, hrun, rfl, rfl, rfl, h1, hm, hrx,
      SeqPlan.world_start (writePlan i page addr reg (s.loadWriteSeq [])) henv⟩
  · rw [startWriteSeq_awaiting _ _ _ _ (by rintro rfl; exact hne (List.eq_nil_of_length_eq_zero hall)) hlen, ← hall]
    exact hf.completes hrx hgood hne (hall.trans hcnt.symm) henv

/-- A write sequence whose elements are answered well up to a bad response. -/
theorem writeSeq_fails {r : List Byte} (hlt : rs.length < b.length) (hr : r.length ≤ 4) (hbad : ¬ goodResponse 0xBC r)
    (henv : s.world.env = seqReplies s.cfg.flushBeforeWrite (rs ++ [r]) ++ later) :
    (responseCheck r 0xBC 1 fun _ => .none).status ≠ .ok ∧
    ∃ t, execRun i (xactCalls s.cfg.flushBeforeWrite * (rs.length + 1))
      (s.startWriteSeq page addr reg b (writeEnd i)) =
        .next (t.fail (writeFailure i (responseCheck r 0xBC 1 fun _ => .none).status)) ∧
      SeqOver (writePlan i page addr reg (s.loadWriteSeq b)) i (s.loadWriteSeq b) rs (rs ++ [r]) later t := by
  have hf := loadWriteSeq_follows hrun hm hw h3 hlen
  have hcnt : (s.loadWriteSeq b).u2.cnt.toNat = b.length := toNat_ofNat9 _ (by omega)
  rw [startWriteSeq_awaiting _ _ _ _ (by rintro rfl; cases hlt) hlen]
  exact hf.fails hrx hgood (hlt.trans_eq hcnt.symm) hr hbad henv

end WriteSeq

section ReadSeq

variable {i : Instr} {s : State} {page addr : Byte} {reg : Option Byte} {c : Nat} {rs : List (List Byte)}
  {later : List EnvReply} (hrun : s.runs i) (hm : s.u1.txbuf.wf = true) (hbuf : s.u2.buf.wf = true)
  (hw : readSeqOf s.cfg i = some (page, addr, reg)) (h3 : (exchangeOf i).isSome → s.u3.phase = .recv)
  (hc : c ≤ 255) (hgood : ∀ r ∈ rs, goodResponse 0xAB r)
include hrun hm hbuf hw h3 hc

theorem loadReadSeq_follows : (readPlan i page addr reg (s.loadReadSeq c)).Follows i (s.loadReadSeq c) :=
  readPlan_follows (s := s.loadReadSeq c) hrun hm rfl hw rfl
    (by change (BitVec.ofNat 9 c).toNat ≤ 255; rwa [toNat_ofNat9 _ (by omega)]) h3 hbuf

include hgood

/-- A read sequence all of whose elements are answered well. -/
theorem readSeq_completes (h1 : s.u1.phase = .idle) (hall : rs.length = c)
    (henv : s.world.env = seqReplies true rs ++ later) :
    ∃ t, execRun i (3 * c) (s.startReadSeq page addr reg c (readEnd i)) = .next (readEnd i (dataBytes rs) t) ∧
      SeqOver (readPlan i page addr reg (s.loadReadSeq c)) i (s.loadReadSeq c) rs rs later t := by
  have hf := loadReadSeq_follows hrun hm hbuf hw h3 hc
  have hcnt : (s.loadReadSeq c).u2.cnt.toNat = c := toNat_ofNat9 _ (by omega)
  subst hall
  rcases eq_or_ne rs [] with rfl | hne
  · exact ⟨_, rfl, hrun, rfl, rfl, rfl, h1, hm, .inl rfl,
      SeqPlan.world_start (readPlan i page addr reg (s.loadReadSeq 0)) henv⟩
  · rw [startReadSeq_pos _ _ _ _ _ _ (List.length_pos_iff.2 hne) hc]
    exact hf.completes (.inl rfl) hgood hne hcnt.symm henv

/-- A read sequence whose elements are answered well up to a bad response. -/
theorem readSeq_fails {r : List Byte} (hlt : rs.length < c) (hr : r.length ≤ 4) (hbad : ¬ goodResponse 0xAB r)
    (henv : s.world.env = seqReplies true (rs ++ [r]) ++ later) :
    (responseCheck r 0xAB 1 fun _ => .none).status ≠ .ok ∧
    ∃ t, execRun i (3 * (rs.length + 1)) (s.startReadSeq page addr reg c (readEnd i)) =
        .next (t.fail (readFailure i (responseCheck r 0xAB 1 fun _ => .none).status)) ∧
      SeqOver (readPlan i page addr reg (s.loadReadSeq c)) i (s.loadReadSeq c) rs (rs ++ [r]) later t := by
  have hf := loadReadSeq_follows hrun hm hbuf hw h3 hc
  have hcnt : (s.loadReadSeq c).u2.cnt.toNat = c := toNat_ofNat9 _ (by omega)
  rw [startReadSeq_pos _ _ _ _ _ _ (by omega) hc]
  exact hf.fails (.inl rfl) hgood (hlt.trans_eq hcnt.symm) hr hbad henv

end ReadSeq

/-! ### From acceptance to delivery -/

/-- A command whose calls end with a result delivers it in the step after them, and the block is idle. -/
theorem execRun_delivers {i : Instr} {s s1 t : State} {n : Nat} {r : Rsp} (hrun : t.runs i)
    (haccept : exec i s = .next s1) (hcalls : execRun i n s1 = .next (t.withResult r)) :
    execRun i (n + 2) s = .next ((t.withResult r).deliver r) ∧ State.idle ((t.withResult r).deliver r) := by
  obtain ⟨hb, hl, hh, _⟩ := hrun
  refine ⟨?_, rfl, rfl, hh, rfl⟩
  rw [execRun_succ haccept, execRun_trans hcalls]
  exact execRun_one (exec_deliver hb hl hh rfl)

/-- The end of a command whose sequence is over with its result. -/
theorem SeqOver.delivers {p : SeqPlan} {i : Instr} {s s0 s1 t : State} {n : Nat} {r : Rsp}
    {stored rs : List (List Byte)} {later : List EnvReply} (h : SeqOver p i s0 stored rs later t)
    (hlen : stored.length ≤ 257) (haccept : exec i s = .next s1) (hcalls : execRun i n s1 = .next (t.withResult r)) :
    ∃ u, execRun i (n + 2) s = .next u ∧ u.idle ∧ u.status = r.status.code ∧ u.u2.idx.toNat = stored.length ∧
      u.world.env = later ∧ u.world.calls = s0.world.calls + xactCalls p.flush * rs.length ∧
      u.world.hist = s0.world.hist ++ p.events rs ++ [.rsp r] := by
  obtain ⟨hend, hidle⟩ := execRun_delivers h.runs haccept hcalls
  refine ⟨_, hend, hidle, rfl, ?_, congrArg World.env h.world, congrArg World.calls h.world,
    congrArg (· ++ [Event.rsp r]) (congrArg World.hist h.world)⟩
  change t.u2.idx.toNat = _
  rw [h.u2]
  exact toNat_ofNat9 _ (by omega)

/-- Settles O28: acceptance, the write sequence up to its end or its first bad response, and the delivery. -/
theorem i2cWrsRun : Obligations.I2cWrsRun := by
  intro page addr reg bytes rs s later ⟨hb, hd, hh, hunits⟩ hm hbuf hlen hgood hrx i flush
  have haccept := exec_accept_eq rfl hb (startOf_i2cWrs (page := page) (addr := addr) (reg := reg) hlen rfl)
  have hrun : (s.accepted i).runs i := ⟨rfl, latchOf_instr i rfl, hh, hd⟩
  have h3 : (exchangeOf i).isSome → (s.accepted i).u3.phase ≠ .recv := fun he => Bool.noConfusion he
  refine ⟨fun hall henv => ?_, fun bad hlt hbad4 hbad henv => ?_⟩
  · obtain ⟨h1, _⟩ := unitsIdle_iff.1 hunits
    obtain ⟨t, hcalls, hover⟩ := writeSeq_completes hrun hm rfl h3 hlen hrx hgood h1 hall henv
    obtain ⟨u, hend, hidle, hstatus, hidx, hlater, hcount, hhist⟩ :=
      hover.delivers (r := ⟨.ok, .none⟩) (by omega) haccept hcalls
    rw [writePlan_events (s := s.accepted i) hbuf hall.le] at hhist
    exact ⟨u, hend, hidle, hstatus, hidx.trans hall, hlater, hall ▸ hcount, hhist⟩
  · obtain ⟨hne, t, hcalls, hover⟩ := writeSeq_fails hrun hm rfl h3 hlen hrx hgood hlt hbad4 hbad henv
    obtain ⟨u, hend, hidle, hstatus, hidx, hlater, _, hhist⟩ := hover.delivers (by omega) haccept hcalls
    rw [writePlan_events (s := s.accepted i) hbuf (by rw [List.length_append]; exact hlt)] at hhist
    exact ⟨u, hend, hidle, hne, hstatus, hidx, hlater, hhist⟩

/-- Settles O29: acceptance, the read sequence up to its end or its first bad response, and the delivery. -/
theorem i2cRdsRun : Obligations.I2cRdsRun := by
  intro page addr reg count rs s later ⟨hb, hd, hh, hunits⟩ hm hbuf hcount hgood i
  have haccept := exec_accept_eq rfl hb (startOf_i2cRds (page := page) (addr := addr) (reg := reg) hcount rfl)
  have hrun : (s.accepted i).runs i := ⟨rfl, latchOf_instr i rfl, hh, hd⟩
  have h3 : (exchangeOf i).isSome → (s.accepted i).u3.phase = .recv := fun he => Bool.noConfusion he
  refine ⟨fun hall henv => ?_, fun bad hlt hbad4 hbad henv => ?_⟩
  · obtain ⟨h1, _⟩ := unitsIdle_iff.1 hunits
    obtain ⟨t, hcalls, hover⟩ := readSeq_completes hrun hm hbuf rfl h3 hcount hgood h1 hall henv
    obtain ⟨u, hend, hidle, hstatus, hidx, hlater, hcount, hhist⟩ :=
      hover.delivers (r := ⟨.ok, .bytes (dataBytes rs)⟩) (by omega) haccept hcalls
    rw [readPlan_events] at hhist
    exact ⟨u, hend, hidle, hstatus, hidx.trans hall, hlater, hall ▸ hcount, hhist⟩
  · obtain ⟨hne, t, hcalls, hover⟩ := readSeq_fails hrun hm hbuf rfl h3 hcount hgood hlt hbad4 hbad henv
    obtain ⟨u, hend, hidle, hstatus, hidx, hlater, _, hhist⟩ := hover.delivers (by omega) haccept hcalls
    rw [readPlan_events] at hhist
    exact ⟨u, hend, hidle, hne, hstatus, hidx, hlater, hhist⟩

end Sys2Proof.Machine

namespace Sys2Proof.Machine

/-! ## How many calls a running command can still make (R137, R230) -/

/-- The calls of a transaction that are still to come. -/
def FcPhase.callsLeft : FcPhase → Nat
  | .idle => 0
  | .flush => 3
  | .send => 2
  | .recv => 1

/-- A bound on the calls a running command still makes: none once it has a result; else the rest of its transaction,
three for each later element, and after a write sequence the settle delay and the longest reply. -/
def State.callsLeft (s : State) : Nat :=
  if s.done.isSome then 0
  else match s.u2.phase with
    | .wr => s.u1.phase.callsLeft + 3 * (s.u2.cnt.toNat - (s.u2.idx.toNat + 1)) + (1 + 3 * 255)
    | .rd => s.u1.phase.callsLeft + 3 * (s.u2.cnt.toNat - (s.u2.idx.toNat + 1))
    | .idle => if s.u1.phase = .idle then 1 + 3 * 255 else s.u1.phase.callsLeft

theorem FcPhase.callsLeft_le (p : FcPhase) : p.callsLeft ≤ 3 := by
  cases p <;> decide

theorem FcPhase.callsLeft_pos {p : FcPhase} (h : p ≠ .idle) : 0 < p.callsLeft := by
  cases p with
  | idle => exact absurd rfl h
  | _ => exact Nat.succ_pos _

section CallsLeft

variable {s : State} (hd : s.done = none)
include hd

theorem callsLeft_wr (h2 : s.u2.phase = .wr) : s.callsLeft =
    s.u1.phase.callsLeft + 3 * (s.u2.cnt.toNat - (s.u2.idx.toNat + 1)) + (1 + 3 * 255) := by
  simp only [State.callsLeft, hd, h2, Option.isSome_none, Bool.false_eq_true, if_false]

theorem callsLeft_rd (h2 : s.u2.phase = .rd) :
    s.callsLeft = s.u1.phase.callsLeft + 3 * (s.u2.cnt.toNat - (s.u2.idx.toNat + 1)) := by
  simp only [State.callsLeft, hd, h2, Option.isSome_none, Bool.false_eq_true, if_false]

theorem callsLeft_alone (h2 : s.u2.phase = .idle) (h1 : s.u1.phase ≠ .idle) :
    s.callsLeft = s.u1.phase.callsLeft := by
  simp only [State.callsLeft, hd, h2, h1, Option.isSome_none, Bool.false_eq_true, if_false]

theorem callsLeft_settling (h2 : s.u2.phase = .idle) (h1 : s.u1.phase = .idle) : s.callsLeft = 1 + 3 * 255 := by
  simp only [State.callsLeft, hd, h2, h1, Option.isSome_none, Bool.false_eq_true, if_false, if_true]

/-- Within a transaction the bound falls with what is left of it. -/
theorem callsLeft_lt_of_phase {t : State} (ht : t.done = none) (h2 : t.u2 = s.u2) (hs : s.u1.phase ≠ .idle)
    (hn : t.u1.phase ≠ .idle) (hlt : t.u1.phase.callsLeft < s.u1.phase.callsLeft) : t.callsLeft < s.callsLeft := by
  cases h : s.u2.phase with
  | wr =>
    rw [callsLeft_wr hd h, callsLeft_wr ht (h2 ▸ h), h2]
    omega
  | rd =>
    rw [callsLeft_rd hd h, callsLeft_rd ht (h2 ▸ h), h2]
    omega
  | idle => rwa [callsLeft_alone hd h hs, callsLeft_alone ht (h2 ▸ h) hn]

/-- After a write sequence there is the settle delay and a reply, or nothing. -/
theorem callsLeft_writeEnd_le (i : Instr) (h2 : s.u2.phase = .idle) (h1 : s.u1.phase = .idle) :
    (writeEnd i s).callsLeft ≤ 1 + 3 * 255 := by
  rcases writeEnd_cases i s with e | e <;> rw [e]
  · exact (callsLeft_settling (s := s.psPhase .settle) hd h2 h1).le
  · exact Nat.zero_le _

end CallsLeft

theorem callsLeft_readEnd (i : Instr) (b : List Byte) (s : State) : (readEnd i b s).callsLeft = 0 := by
  rcases readEnd_cases i b s with e | e <;> rw [e] <;> rfl

/-- An element of a write sequence, from its last call on: three calls less for each element. -/
theorem callsLeft_afterWriteElem_le {s : State} (hd : s.done = none) (h1 : s.u1.phase = .idle) (h2 : s.u2.phase = .wr)
    (hlt : s.u2.idx.toNat < s.u2.cnt.toNat) (hc : s.u2.cnt.toNat ≤ 257) (i : Instr) (page addr reg : Byte)
    (q : XactResult) :
    (s.afterWriteElem page addr reg (writeEnd i) (fun e t => t.fail (writeFailure i e)) q).callsLeft ≤
      3 * (s.u2.cnt.toNat - (s.u2.idx.toNat + 1)) + (1 + 3 * 255) := by
  cases q with
  | fail e => exact Nat.zero_le _
  | ok p =>
    rcases Nat.lt_or_eq_of_le hlt with hmore | hlast
    · rw [afterWriteElem_more _ _ _ _ _ _ _ hmore hc, callsLeft_wr (by exact hd) (by exact h2)]
      have hx := FcPhase.callsLeft_le (if s.cfg.flushBeforeWrite then .flush else .send)
      have hidx : (s.u2.idx + 1).toNat = s.u2.idx.toNat + 1 := idx_succ hlt hc
      change FcPhase.callsLeft (if s.cfg.flushBeforeWrite then .flush else .send) +
        3 * (s.u2.cnt.toNat - ((s.u2.idx + 1).toNat + 1)) + _ ≤ _
      omega
    · rw [afterWriteElem_last _ _ _ _ _ _ _ hlast hc]
      have := callsLeft_writeEnd_le (s := { s with u2 := { s.u2 with phase := .idle, idx := s.u2.idx + 1 } }) hd i rfl
        h1
      omega

/-- The same of a read sequence. -/
theorem callsLeft_afterReadElem_le {s : State} (hd : s.done = none) (h2 : s.u2.phase = .rd)
    (hlt : s.u2.idx.toNat < s.u2.cnt.toNat) (hc : s.u2.cnt.toNat ≤ 255) (i : Instr) (page addr : Byte)
    (reg : Option Byte) (q : XactResult) :
    (s.afterReadElem page addr reg (readEnd i) (fun e t => t.fail (readFailure i e)) q).callsLeft ≤
      3 * (s.u2.cnt.toNat - (s.u2.idx.toNat + 1)) := by
  cases q with
  | fail e => exact Nat.zero_le _
  | ok p =>
    rcases Nat.lt_or_eq_of_le hlt with hmore | hlast
    · rw [afterReadElem_more _ _ _ _ _ _ _ hmore hc, callsLeft_rd (by exact hd) (by exact h2)]
      have hidx : (s.u2.idx + 1).toNat = s.u2.idx.toNat + 1 := idx_succ hlt (by omega)
      change 3 + 3 * (s.u2.cnt.toNat - ((s.u2.idx + 1).toNat + 1)) ≤ _
      omega
    · rw [afterReadElem_last _ _ _ _ _ _ _ hlast hc, callsLeft_readEnd]
      exact Nat.zero_le _

/-- A read sequence at its start. -/
theorem callsLeft_startReadSeq_le {s : State} (hd : s.done = none) {c : Nat} (hc : c ≤ 255) (i : Instr)
    (page addr : Byte) (reg : Option Byte) : (s.startReadSeq page addr reg c (readEnd i)).callsLeft ≤ 3 * c := by
  rcases Nat.eq_zero_or_pos c with rfl | hpos
  · rw [startReadSeq_zero, callsLeft_readEnd]
  · rw [startReadSeq_pos _ _ _ _ _ _ hpos hc, callsLeft_rd (by exact hd) rfl]
    change 3 + 3 * ((BitVec.ofNat 9 c).toNat - (0 + 1)) ≤ _
    rw [toNat_ofNat9 _ (by omega)]
    omega

section Calls

variable {i : Instr} {s : State} (h : s.Inv) (hrun : s.runs i)
include h hrun

/-- A command without a result has a call to make. -/
theorem callsLeft_pos : 0 < s.callsLeft := by
  obtain ⟨hb, hl, _, hd⟩ := hrun
  rcases phasesOf_cases s.cfg (inv_running h hb hd hl).1 with ⟨_, hx⟩ | ⟨_, hx⟩ | ⟨_, hx⟩ | ⟨_, hx⟩
  · obtain ⟨h1, h2, _⟩ := inXact_iff.1 hx
    rw [callsLeft_alone hd h2 h1]
    exact FcPhase.callsLeft_pos h1
  · obtain ⟨_, h2, _⟩ := inXact_iff.1 hx
    rw [callsLeft_wr hd h2]
    omega
  · obtain ⟨h1, h2, _⟩ := inXact_iff.1 hx
    have := FcPhase.callsLeft_pos h1
    rw [callsLeft_rd hd h2]
    omega
  · obtain ⟨h1, h2, _⟩ := settling_iff.1 hx
    rw [callsLeft_settling hd h2 h1]
    omega

/-- The read of a transaction, and what the command does with its result, use up one call. -/
theorem callsLeft_recvStep_lt (hp : s.u1.phase = .recv) (a : List Byte) :
    (afterOf (some i) (s.answered a).recvResult (s.answered a).recvStep).callsLeft < s.callsLeft := by
  obtain ⟨hb, hl, _, hd⟩ := hrun
  have hone : s.u1.phase.callsLeft = 1 := by rw [hp]; rfl
  rcases phasesOf_cases s.cfg (inv_running h hb hd hl).1 with ⟨ho, hx⟩ | ⟨hw, hx⟩ | ⟨hr, hx⟩ | ⟨_, hx⟩
  · obtain ⟨h1, h2, _⟩ := inXact_iff.1 hx
    rw [afterOf_oneTransaction ho, callsLeft_alone hd h2 h1, hone]
    cases (s.answered a).recvResult <;> exact Nat.zero_lt_one
  · obtain ⟨_, h2, h3, hlt, _⟩ := inXact_iff.1 hx
    obtain ⟨⟨page, addr, reg⟩, hw'⟩ := Option.isSome_iff_exists.1 hw
    rw [afterOf_write (s := (s.answered a).recvStep) hw' hl fun he => by simp [h3, sendPhase_exchange he],
      callsLeft_wr hd h2, hone]
    have := callsLeft_afterWriteElem_le (s := (s.answered a).recvStep) hd rfl h2 (hlt.resolve_left (by decide))
      h.sound.u2.cnt i page addr reg (s.answered a).recvResult
    rw [State.recvStep_u2, State.answered_u2] at this
    omega
  · obtain ⟨_, h2, h3, hlt, hc⟩ := inXact_iff.1 hx
    obtain ⟨⟨page, addr, reg⟩, hr'⟩ := Option.isSome_iff_exists.1 hr
    rw [afterOf_read (s := (s.answered a).recvStep) hr' hl fun he => by simp [h3, recvPhase_exchange he],
      callsLeft_rd hd h2, hone]
    have := callsLeft_afterReadElem_le (s := (s.answered a).recvStep) hd h2 (hlt.resolve_left (by decide))
      (hc.resolve_left fun hne => hne rfl) i page addr reg (s.answered a).recvResult
    rw [State.recvStep_u2, State.answered_u2] at this
    omega
  · rw [(settling_iff.1 hx).1] at hp
    cases hp

/-- The settle delay uses up one call, too. -/
theorem callsLeft_delayStep_lt (hp : s.u1.phase = .idle) (a : List Byte) :
    (settledOf i (s.answered a).delayStep).callsLeft < s.callsLeft := by
  obtain ⟨hb, hl, _, hd⟩ := hrun
  obtain ⟨hph, hg⟩ := inv_running h hb hd hl
  rcases phasesOf_cases s.cfg hph with ⟨_, hx⟩ | ⟨_, hx⟩ | ⟨_, hx⟩ | ⟨he, hx⟩
  · exact absurd hp (inXact_iff.1 hx).1
  · exact absurd hp (inXact_iff.1 hx).1
  · exact absurd hp (inXact_iff.1 hx).1
  · obtain ⟨⟨opcode, fields, c⟩, he'⟩ := Option.isSome_iff_exists.1 he
    obtain ⟨_, hc⟩ := exchangeOf_bounds he' hg
    rw [settledOf_exchange (s := (s.answered a).delayStep) he' hl, callsLeft_settling hd (settling_iff.1 hx).2.1 hp]
    have := callsLeft_startReadSeq_le (s := (s.answered a).delayStep.psPhase .recv) hd hc i
      (s.answered a).delayStep.cfg.psuPage (s.answered a).delayStep.cfg.psuAddr none
    omega

/-- Each call that returns uses up one of those that are left. -/
theorem callsLeft_transport_lt {t : State} (ht : s.transport (afterOf (some i)) (settledOf i) = .next t)
    (hr : s.reply ≠ .never) : t.callsLeft < s.callsLeft := by
  obtain ⟨_, ⟨hnever, _⟩ | ⟨a, _, ⟨hp, rfl⟩ | ⟨hp, rfl⟩ | ⟨hp, rfl⟩ | ⟨hp, _, rfl⟩⟩⟩ := State.transport_cases _ _ _ ht
  · exact absurd hnever hr
  · obtain ⟨_, _, _, hd⟩ := hrun
    exact callsLeft_lt_of_phase hd hd rfl (by simp [hp]) (by simp) (by rw [hp]; exact Nat.lt_succ_self 2)
  · obtain ⟨_, _, _, hd⟩ := hrun
    exact callsLeft_lt_of_phase hd hd rfl (by simp [hp]) (by simp) (by rw [hp]; exact Nat.lt_succ_self 1)
  · exact callsLeft_recvStep_lt h hrun hp a
  · exact callsLeft_delayStep_lt h hrun hp a

end Calls

/-- The longest write sequence, the delay and the longest reply. -/
theorem callsLeft_le {s : State} (h : s.Inv) : s.callsLeft ≤ 3 * 257 + 1 + 3 * 255 := by
  have hx := s.u1.phase.callsLeft_le
  have hc := h.sound.u2.cnt
  cases hd : s.done with
  | some r => simp [State.callsLeft, hd]
  | none =>
    cases h2 : s.u2.phase with
    | wr => rw [callsLeft_wr hd h2]; omega
    | rd => rw [callsLeft_rd hd h2]; omega
    | idle =>
      by_cases h1 : s.u1.phase = .idle
      · rw [callsLeft_settling hd h2 h1]; omega
      · rw [callsLeft_alone hd h2 h1]; omega

/-- A step of a running block that is not stuck and whose host does nothing: it delivers and is idle, or it makes a
call. -/
theorem step_running_cases {s : State} (h : s.Inv) (hb : s.busy = true) (hh : s.hung = false)
    (hhost : s.world.host = []) :
    (∃ t, step s = .next t ∧ t.idle) ∨
    (∃ i t, step s = .next t ∧ s.runs i ∧ s.transport (afterOf (some i)) (settledOf i) = .next t) := by
  obtain ⟨t, ht⟩ := step_next_of_busy h hb
  rcases step_busy_cases (by simp [State.noReset, hhost]) hb ht with
    ⟨hstuck, _⟩ | ⟨r, _, hd, rfl⟩ | ⟨i, _, hd, hl, _, hc⟩
  · rw [hh] at hstuck
    cases hstuck
  · rw [tick_nil hhost] at ht
    obtain ⟨_, hunits, _⟩ := inv_done h hb hd
    exact .inl ⟨_, ht, rfl, rfl, hh, hunits⟩
  · rw [tick_nil hhost] at hc
    exact .inr ⟨i, t, ht, ⟨hb, hl, hh, hd⟩, hc⟩

theorem runSteps_succ {n : Nat} {s t : State} (h : step s = .next t) : runSteps (n + 1) s = runSteps n t := by
  rw [runSteps, h]

/-- A running block whose calls return is idle after the calls left to it and the step of delivery. -/
theorem runSteps_idle {n : Nat} {s : State} (h : s.Inv) (hb : s.busy = true) (hh : s.hung = false)
    (hhost : s.world.host = []) (hn : s.callsLeft ≤ n) (henv : n ≤ s.world.env.length)
    (hret : ∀ r ∈ s.world.env, r ≠ .never) : ∃ k t, k ≤ n + 1 ∧ runSteps k s = .next t ∧ t.idle := by
  induction n generalizing s with
  | zero =>
    rcases step_running_cases h hb hh hhost with ⟨t, ht, hidle⟩ | ⟨i, _, _, hrun, _⟩
    · exact ⟨1, t, le_rfl, runSteps_succ ht, hidle⟩
    · exact absurd (callsLeft_pos h hrun) (by omega)
  | succ n ih =>
    rcases step_running_cases h hb hh hhost with ⟨t, ht, hidle⟩ | ⟨i, t, ht, hrun, hc⟩
    · exact ⟨1, t, by omega, runSteps_succ ht, hidle⟩
    · obtain ⟨r, later, he⟩ := List.exists_cons_of_length_pos (Nat.zero_lt_of_lt henv)
      have hr : s.reply ≠ .never := by
        rw [reply_cons he]
        exact hret r (by simp [he])
      have hlt := callsLeft_transport_lt h hrun hc hr
      obtain ⟨_, hbusy, _, _, hhost', henv', _, ⟨hnever, _⟩ | ⟨_, hhung, _⟩⟩ := transport_top hc
      · exact absurd hnever hr
      rw [he, List.tail_cons] at henv'
      rw [he, List.length_cons] at henv
      obtain ⟨k, u, hk, hsteps, hidle⟩ := ih (stepKeepsInvariant s t h ht) (hbusy.trans hb) (hhung.trans hh)
        (hhost'.trans hhost) (by omega) (by rw [henv']; omega) (fun q hq => hret q (by rw [henv'] at hq; simp [he, hq]))
      exact ⟨k + 1, u, by omega, (runSteps_succ ht).trans hsteps, hidle⟩

/-- Settles O60: `State.callsLeft` is at most 1537 at the start and falls with every call. -/
theorem commandsEnd : Obligations.CommandsEnd := fun _ h hb hh hhost henv hret =>
  runSteps_idle h hb hh hhost (callsLeft_le h) henv hret

end Sys2Proof.Machine

namespace Sys2Proof.Machine

/-! ## Packets (R85 to R88, R150, R151) -/

/-- The two low bytes of a number below 65536 are all of it. -/
theorem lowBytes_toNat {n : Nat} (h : n < 65536) :
    (BitVec.ofNat 8 n).toNat + 256 * (BitVec.ofNat 8 (n / 256)).toNat = n := by
  rw [BitVec.toNat_ofNat, BitVec.toNat_ofNat]
  omega

/-- The layout of R85 with the checksum of R87 written out. -/
theorem buildPacket_eq (opcode : Byte) (fields : List Byte) :
    buildPacket opcode fields =
      let checksum := (fields.length + 4 + opcode.toNat + (fields.map (·.toNat)).sum) % 65536
      [0x55, 0xAA, BitVec.ofNat 8 (fields.length + 4), opcode] ++ fields ++
        [BitVec.ofNat 8 (checksum % 256), BitVec.ofNat 8 (checksum / 256)] := by
  have hlow (n : Nat) : BitVec.ofNat 8 (n % 256) = BitVec.ofNat 8 n := BitVec.eq_of_toNat_eq (by simp)
  simp only [hlow, Nat.add_assoc (fields.length + 4)]
  rfl

/-- The packet of an operation with one operand byte (R88, R157, R158). -/
theorem buildPacket_operand (opcode v : Byte) :
    ∃ lo hi : Byte, buildPacket opcode [v, 0x00] = [0x55, 0xAA, 0x06, opcode, v, 0x00, lo, hi] ∧
      lo.toNat + 256 * hi.toNat = 0x06 + opcode.toNat + v.toNat := by
  refine ⟨_, _, rfl, (lowBytes_toNat (Nat.mod_lt _ (by decide))).trans ?_⟩
  have ho := opcode.isLt
  have hv := v.isLt
  change (6 + (opcode.toNat + (v.toNat + (0 + 0)))) % 65536 = _
  omega

/-- Settles O30. -/
theorem psuBuild : Obligations.PsuBuild := by
  intro opcode fields s hb hm i length checksum packet
  have hpacket : buildPacket opcode fields = packet := buildPacket_eq opcode fields
  refine ⟨rfl, fun hf => exec_accept_eq rfl hb ?_, fun hf => exec_accept_eq rfl hb ?_⟩
  · obtain ⟨hf', _⟩ | ⟨_, hstart⟩ := startOf_psuBuild (s := s.accepted i) rfl hm
    · omega
    · rw [hpacket] at hstart
      rw [hstart, State.loadPacket, hpacket]
      rfl
  · obtain ⟨_, hstart⟩ | ⟨hf', _⟩ := startOf_psuBuild (s := s.accepted i) rfl hm
    · exact hstart
    · omega

/-! ## The start of an exchange (R154 to R160) -/

/-- The operand checks of an exchange, the converse of `exchangeOf_bounds` with it. -/
theorem badOperand_exchange {i : Instr} {opcode : Byte} {fields : List Byte} {c : Nat}
    (he : exchangeOf i = some (opcode, fields, c)) :
    i.badOperand = true ↔ 251 < fields.length ∨ 255 < c := by
  cases i with
  | psuCmd =>
    cases he
    simp only [Instr.badOperand, Bool.or_eq_true, decide_eq_true_eq]
  | psuGetHwver | psuCfgWdt | psuSetV | psuGetV | psuMeasV =>
    cases he
    simp [Instr.badOperand]
  | _ => cases he

theorem exchange_calls {i : Instr} {x : Byte × List Byte × Nat} (he : exchangeOf i = some x) : i.calls = true :=
  psuCalls_calls (psuCalls_of_exchange (by rw [he]; rfl))

/-- The packet is loaded and the exchange is in its send phase (R23, R24). -/
def State.sending (opcode : Byte) (fields : List Byte) (s : State) : State :=
  (s.loadPacket opcode fields).psPhase .send

/-- A command that makes an exchange begins with the write sequence of its packet. -/
theorem exec_exchange_accept {i : Instr} {opcode : Byte} {fields : List Byte} {c : Nat} {s : State}
    (he : exchangeOf i = some (opcode, fields, c)) (hf : fields.length ≤ 251) (hc : c ≤ 255) (hb : s.busy = false)
    (hm : s.u3.pkbuf.wf = true) :
    exec i s = .next (((s.accepted i).sending opcode fields).startWriteSeq s.cfg.psuPage s.cfg.psuAddr s.cfg.psuReg
      (buildPacket opcode fields) (writeEnd i)) := by
  have hg : i.badOperand = false := Bool.eq_false_iff.2 (mt (badOperand_exchange he).1 (by omega))
  refine exec_accept_eq (calls_channel i (exchange_calls he)) hb ?_
  rw [startOf_exchange he hg rfl, startExchange_eq (s := s.accepted i) hm hf, writeEnd_exchange (by rw [he]; rfl)]
  rfl

/-- Settles O31. -/
theorem exchangeStarts : Obligations.ExchangeStarts := by
  refine ⟨rfl, rfl, rfl, fun e => buildPacket_operand 0x81 e, fun v => buildPacket_operand 0x83 v, ?_⟩
  intro i opcode fields c s he hb hbuf hm packet
  refine ⟨fun ⟨hf, hc⟩ => ?_, fun hbad => ?_⟩
  · have hlen : packet.length = fields.length + 6 := buildPacket_length opcode fields
    obtain ⟨tail, hhead⟩ : ∃ tail, packet = 0x55 :: tail := ⟨_, rfl⟩
    have hstart := startWriteSeq_cons s.cfg.psuPage s.cfg.psuAddr s.cfg.psuReg (writeEnd i) 0x55 tail
      ((s.accepted i).sending opcode fields) hbuf (by rw [← hhead, hlen]; omega)
    rw [← hhead, hlen] at hstart
    exact (exec_exchange_accept he hf hc hb hm).trans (congrArg _ hstart)
  · exact exec_accept_bad (exchange_calls he) ((badOperand_exchange he).2 hbad) hb

/-! ## The voltage law (R161, R162) -/

/-- `voltDecode` does not go below zero: the lowest voltage is 11777 mV. -/
theorem voltDecode_toNat (h : Byte) : (voltDecode h).toNat = 15092 - 13 * h.toNat := by
  rw [voltDecode, BitVec.toNat_ofNat]
  exact Nat.mod_eq_of_lt (by simp only [vOffsetMv, vStepMv]; omega)

/-- The floor of R162 as its two bounds. -/
theorem voltCode_eq_iff (mv : Half) (k : Int) :
    voltCode mv = k ↔ 26 * k ≤ 2 * (15092 - (mv.toNat : Int)) + 13 ∧
      2 * (15092 - (mv.toNat : Int)) + 13 < 26 * (k + 1) := by
  rw [voltCode, Int.fdiv_eq_ediv_of_nonneg _ (by decide), vOffsetMv]
  omega

/-- `voltEncode` answers the floor of R162 where that is a byte. -/
theorem voltEncode_eq_some_iff (mv : Half) (h : Byte) :
    voltEncode mv = some h ↔ voltCode mv = h.toNat := by
  have hlt := h.isLt
  unfold voltEncode
  split
  · next hin =>
    rw [Option.some_inj, ← BitVec.toNat_inj, toNat_ofNat8 _ (by omega)]
    omega
  · next hout => exact iff_of_false (by simp) (by omega)

theorem voltEncode_eq_none_iff (mv : Half) : voltEncode mv = none ↔ mv.toNat < 11771 ∨ 15098 < mv.toNat := by
  have hcode := (voltCode_eq_iff mv _).1 rfl
  unfold voltEncode
  split
  · next hin => exact iff_of_false (by simp) (by omega)
  · next hout => exact iff_of_true rfl (by omega)

theorem exec_voltDec (h : Byte) {s : State} (hb : s.busy = false) :
    exec (.voltDec h) s = .next ((s.accepted (.voltDec h)).withResult ⟨.ok, .num (voltDecode h)⟩) :=
  exec_accept_eq rfl hb rfl

theorem exec_voltEnc {mv : Half} {h : Byte} {s : State} (hb : s.busy = false) (hcode : voltEncode mv = some h) :
    exec (.voltEnc mv) s = .next ((s.accepted (.voltEnc mv)).withResult ⟨.ok, .byte h⟩) :=
  exec_accept_eq rfl hb (by rw [startOf_voltEnc mv rfl, hcode]; rfl)

theorem exec_voltEnc_none {mv : Half} {s : State} (hb : s.busy = false) (hcode : voltEncode mv = none) :
    exec (.voltEnc mv) s = .next ((s.accepted (.voltEnc mv)).withResult ⟨.invalidArgument, .none⟩) :=
  exec_accept_eq rfl hb (by rw [startOf_voltEnc mv rfl, hcode]; rfl)

/-- Settles O36. -/
theorem voltageCommands : Obligations.VoltageCommands := by
  refine ⟨fun h s hb => ⟨rfl, exec_voltDec h hb⟩, fun mv s hb => ⟨rfl, fun hin => ?_, fun hout => ?_⟩⟩
  · obtain ⟨h, hcode⟩ := Option.ne_none_iff_exists'.1 (mt (voltEncode_eq_none_iff mv).1 (by omega))
    exact ⟨h, (voltCode_eq_iff mv h.toNat).1 ((voltEncode_eq_some_iff mv h).1 hcode), exec_voltEnc hb hcode⟩
  · exact exec_voltEnc_none hb ((voltEncode_eq_none_iff mv).2 hout)

/-- Settles O37: both directions are arithmetic over the bounds of `voltCode_eq_iff`. -/
theorem voltageRoundTrip : Obligations.VoltageRoundTrip := by
  refine ⟨fun mv h s t hb ht hdone => ?_, fun h v s t hb ht hdone => ?_⟩
  · have hcode : voltEncode mv = some h := by
      cases hv : voltEncode mv with
      | none =>
        rw [exec_voltEnc_none hb hv] at ht
        cases ht
        cases hdone
      | some g =>
        rw [exec_voltEnc hb hv] at ht
        cases ht
        cases hdone
        rfl
    have hbounds := (voltCode_eq_iff mv h.toNat).1 ((voltEncode_eq_some_iff mv h).1 hcode)
    have hlt := h.isLt
    refine ⟨_, _, exec_voltDec h hb, rfl, ?_, ?_⟩ <;> rw [voltDecode_toNat] <;> omega
  · rw [exec_voltDec h hb] at ht
    cases ht
    cases hdone
    have hlt := h.isLt
    have hcode : voltEncode (voltDecode h) = some h := by
      rw [voltEncode_eq_some_iff, voltCode_eq_iff, voltDecode_toNat]
      omega
    exact ⟨_, exec_voltEnc hb hcode, rfl⟩

end Sys2Proof.Machine

namespace Sys2Proof.Machine

/-! ## PSU_SEND and PSU_RECV as a whole (R152, R153) -/

/-- Settles O32: acceptance, the write sequence up to its end or its first bad response, and the delivery. -/
theorem psuSendRun : Obligations.PsuSendRun := by
  intro addr reg packet rs s later ⟨hb, hd, hh, hunits⟩ hm hbuf hlen hgood hrx i flush
  have haccept := exec_accept_eq rfl hb (startOf_psuSend (addr := addr) (reg := reg) hlen rfl)
  have hrun : ((s.accepted i).psPhase .send).runs i := ⟨rfl, latchOf_instr i rfl, hh, hd⟩
  have h3 : (exchangeOf i).isSome → ((s.accepted i).psPhase .send).u3.phase ≠ .recv := fun he => Bool.noConfusion he
  refine ⟨fun hall henv => ?_, fun bad hlt hbad4 hbad henv => ?_⟩
  · obtain ⟨h1, _⟩ := unitsIdle_iff.1 hunits
    obtain ⟨t, hcalls, hover⟩ := writeSeq_completes hrun hm rfl h3 hlen hrx hgood h1 hall henv
    obtain ⟨u, hend, hidle, hstatus, _, hlater, _, hhist⟩ :=
      hover.delivers (r := ⟨.ok, .none⟩) (by omega) haccept hcalls
    rw [writePlan_events (s := (s.accepted i).psPhase .send) hbuf hall.le] at hhist
    exact ⟨u, hend, hidle, hstatus, hlater, hhist⟩
  · obtain ⟨_, t, hcalls, hover⟩ := writeSeq_fails hrun hm rfl h3 hlen hrx hgood hlt hbad4 hbad henv
    obtain ⟨u, hend, hidle, hstatus, hidx, hlater, _, hhist⟩ := hover.delivers (by omega) haccept hcalls
    rw [writePlan_events (s := (s.accepted i).psPhase .send) hbuf (by rw [List.length_append]; exact hlt)] at hhist
    exact ⟨u, hend, hidle, hstatus, hidx, hlater, hhist⟩

/-- The end of a PSU command whose read sequence is over: the bytes are in `RPBUF` and are delivered (R25, R153). -/
theorem SeqOver.delivers_reply {p : SeqPlan} {i : Instr} {s s0 s1 t : State} {n : Nat} {rs : List (List Byte)}
    {later : List EnvReply} (h : SeqOver p i s0 rs rs later t) (hpsu : i.psuCalls = true)
    (hm : s0.u3.rpbuf.wf = true) (hlen : rs.length ≤ 255) (haccept : exec i s = .next s1)
    (hcalls : execRun i n s1 = .next (readEnd i (dataBytes rs) t)) :
    ∃ u, execRun i (n + 2) s = .next u ∧ u.idle ∧ u.status = 0 ∧ u.u3.pklen = s0.u3.pklen ∧
      u.u3.rplen.toNat = rs.length ∧ u.u3.rpbuf.readList 0 rs.length = dataBytes rs ∧ u.world.env = later ∧
      u.world.calls = s0.world.calls + xactCalls p.flush * rs.length ∧
      u.world.hist = s0.world.hist ++ p.events rs ++ [.rsp ⟨.ok, replyData i (dataBytes rs)⟩] := by
  rw [readEnd_psu hpsu, endReply_withResult _ _ _ (by rwa [h.u3]) (by rwa [dataBytes_length])] at hcalls
  obtain ⟨hend, hidle⟩ := execRun_delivers (t := t.loadReply (dataBytes rs)) h.runs haccept hcalls
  refine ⟨_, hend, hidle, rfl, show t.u3.pklen = _ by rw [h.u3], ?_, ?_, congrArg World.env h.world,
    congrArg World.calls h.world, congrArg (· ++ [Event.rsp _]) (congrArg World.hist h.world)⟩
  · change (BitVec.ofNat 8 (dataBytes rs).length).toNat = _
    rw [dataBytes_length, toNat_ofNat8 _ (by omega)]
  · change (t.u3.rpbuf.writeList 0 (dataBytes rs)).readList 0 _ = _
    rw [h.u3, ← dataBytes_length, Memory.readList_writeList _ hm]

/-- Settles O33: acceptance, the read sequence up to its end or its first bad response, and the delivery. -/
theorem psuRecvRun : Obligations.PsuRecvRun := by
  intro addr count rs s later ⟨hb, hd, hh, hunits⟩ hm hbuf hreply hgood i c hc
  have haccept := exec_accept_eq rfl hb (startOf_psuRecv (addr := addr) hc rfl)
  have hrun : ((s.accepted i).psPhase .recv).runs i := ⟨rfl, latchOf_instr i rfl, hh, hd⟩
  have h3 : (exchangeOf i).isSome → ((s.accepted i).psPhase .recv).u3.phase = .recv := fun _ => rfl
  refine ⟨fun hall henv => ?_, fun bad hlt hbad4 hbad henv => ?_⟩
  · obtain ⟨h1, _⟩ := unitsIdle_iff.1 hunits
    obtain ⟨t, hcalls, hover⟩ := readSeq_completes hrun hm hbuf rfl h3 hc hgood h1 hall henv
    obtain ⟨u, hend, hidle, hstatus, _, hcount, hbytes, hlater, _, hhist⟩ :=
      hover.delivers_reply rfl hreply (by omega) haccept hcalls
    rw [readPlan_events] at hhist
    exact ⟨u, hend, hidle, hstatus, hcount.trans hall, hall ▸ hbytes, hlater, hhist⟩
  · obtain ⟨_, t, hcalls, hover⟩ := readSeq_fails hrun hm hbuf rfl h3 hc hgood hlt hbad4 hbad henv
    obtain ⟨u, hend, hidle, hstatus, _, hlater, _, hhist⟩ := hover.delivers (by omega) haccept hcalls
    rw [readPlan_events] at hhist
    exact ⟨u, hend, hidle, hstatus, hlater, hhist⟩

end Sys2Proof.Machine

namespace Sys2Proof.Machine

/-! ## The settle delay finds U1 inside its buffers -/

/-- `TXLEN` and `EXP_LEN` in their bounds (R16, R18): what `inBounds` asks of U1. -/
def State.LengthsFit (s : State) : Prop := s.u1.txlen.toNat ≤ 256 ∧ s.u1.expLen.toNat ≤ 250

theorem lengthsFit_awaiting {s : State} {flush : Bool} {frame : List Byte} {txid : Byte} {n : Nat}
    (hf : isFrame txid frame = true) (hn : n ≤ 250) : (s.awaiting flush frame txid n).LengthsFit := by
  have hlen := (isFrame_length hf).2
  refine ⟨?_, (toNat_ofNat8 n (by omega)).trans_le hn⟩
  exact (toNat_ofNat9 frame.length (by omega)).trans_le hlen

theorem inBounds_of_lengthsFit {s : State} (h : s.LengthsFit) (h2 : s.u2.phase = .idle) : s.inBounds = true := by
  obtain ⟨htx, hexp⟩ := h
  simp [State.inBounds, htx, hexp, h2, maxRspPayload]

section LengthsFit

variable {s : State} (h : s.LengthsFit)
include h

theorem lengthsFit_writeLoop (i : Instr) (page addr reg : Byte) :
    (s.writeLoop page addr reg (writeEnd i)).LengthsFit := by
  rcases writeLoop_cases page addr reg (writeEnd i) s with ⟨_, _, hf, e⟩ | e <;> rw [e]
  · exact lengthsFit_awaiting hf (by decide)
  · rcases writeEnd_cases i s.sqIdle with e | e <;> rw [e] <;> exact h

theorem lengthsFit_readLoop (i : Instr) (page addr : Byte) (reg : Option Byte) :
    (s.readLoop page addr reg (readEnd i)).LengthsFit := by
  rcases readLoop_cases page addr reg (readEnd i) s with ⟨_, hf, e⟩ | e <;> rw [e]
  · exact lengthsFit_awaiting hf (by decide)
  · rcases readEnd_cases i (s.u2.buf.readList 0 s.u2.cnt.toNat) s.sqIdle with e | e <;> rw [e] <;> exact h

theorem lengthsFit_afterOf {i : Instr} (hc : i.calls = true) (hl : s.latch.instr = some i) (q : XactResult) :
    (afterOf (some i) q s).LengthsFit := by
  rcases afterOf_cases hc s.cfg s.u3.phase q with ⟨_, e⟩ | ⟨page, addr, reg, e⟩ | ⟨page, addr, reg, e⟩
  · rw [e]
    cases q <;> exact h
  · rw [e s hl rfl rfl]
    cases q with
    | ok p => exact lengthsFit_writeLoop (s := s.sqNext) h ..
    | fail e => exact h
  · rw [e s hl rfl rfl]
    cases q with
    | ok p => exact lengthsFit_readLoop (s := (s.sqStore (p.getD 0 0)).sqNext) h ..
    | fail e => exact h

theorem lengthsFit_settledOf {i : Instr} (hl : s.latch.instr = some i) : (settledOf i s).LengthsFit := by
  rcases settledOf_cases i with e | ⟨_, _, c, _, e⟩
  · rwa [e]
  · rw [e s hl]
    exact lengthsFit_readLoop (s := (s.psPhase .recv).loadReadSeq c) h ..

theorem lengthsFit_startOf {i : Instr} (hc : i.calls = true) (hl : s.latch = latchOf i) :
    (startOf i s).LengthsFit := by
  cases hg : i.badOperand with
  | true =>
    rw [startOf_bad hc hg hl]
    exact h
  | false =>
    rcases startOf_good hc hg s.cfg with ⟨_, _, _, _, _, hf, hn, e⟩ | ⟨_, _, page, addr, reg, b, _, e⟩ |
      ⟨_, _, page, addr, reg, n, _, e⟩ | ⟨he, opcode, fields, _, e⟩
    · rw [e s hl rfl]
      exact lengthsFit_awaiting hf hn
    · rw [e s hl rfl]
      refine lengthsFit_writeLoop (s := State.loadWriteSeq b (s.psPhase _)) ?_ ..
      exact h
    · rw [e s hl rfl]
      refine lengthsFit_readLoop (s := State.loadReadSeq n (s.psPhase _)) ?_ ..
      exact h
    · rw [e s hl, startExchange, ← writeEnd_exchange he]
      exact lengthsFit_writeLoop (s := (s.sending opcode fields).loadWriteSeq _) h ..

theorem exec_lengthsFit {i : Instr} {t : State} (hc : i.calls = true) (ht : exec i s = .next t) : t.LengthsFit := by
  rcases exec_command_cases s i (calls_channel i hc) ht with
    ⟨_, rfl⟩ | ⟨_, _, rfl⟩ | ⟨_, _, _, rfl⟩ | ⟨r, _, _, _, _, rfl⟩ | ⟨⟨_, hl, _⟩, _, ht⟩
  · exact lengthsFit_startOf (s := s.accept (latchOf i)) h hc rfl
  · exact h
  · exact h
  · exact h
  · obtain ⟨_, ⟨_, rfl⟩ | ⟨a, _, ⟨_, rfl⟩ | ⟨_, rfl⟩ | ⟨_, rfl⟩ | ⟨_, _, rfl⟩⟩⟩ := State.transport_cases _ _ _ ht
    · exact h
    · exact h
    · exact h
    · exact lengthsFit_afterOf (s := (s.answered a).recvStep) h hc hl _
    · exact lengthsFit_settledOf (s := (s.answered a).delayStep) h hl

end LengthsFit

/-- No run of a command that makes calls takes `TXLEN` or `EXP_LEN` out of bounds. -/
theorem execRun_lengthsFit {i : Instr} (hc : i.calls = true) {n : Nat} {s t : State} (h : s.LengthsFit)
    (ht : execRun i n s = .next t) : t.LengthsFit := by
  induction n generalizing s with
  | zero =>
    cases ht
    exact h
  | succ n ih =>
    rw [execRun] at ht
    cases hs : exec i s with
    | next u =>
      rw [hs] at ht
      exact ih (exec_lengthsFit h hc hs) ht
    | fault => rw [hs] at ht; cases ht
    | refused => rw [hs] at ht; cases ht

/-! ## The exchange with the PSU as a whole (R154, R166) -/

/-- Where an exchange sends and where it reads (R154). -/
theorem writeSeqOf_of_exchange {i : Instr} {x : Byte × List Byte × Nat} (he : exchangeOf i = some x) (c : Config) :
    writeSeqOf c i = some (c.psuPage, c.psuAddr, c.psuReg) := by
  cases i <;> first | rfl | cases he

theorem readSeqOf_of_exchange {i : Instr} {x : Byte × List Byte × Nat} (he : exchangeOf i = some x) (c : Config) :
    readSeqOf c i = some (c.psuPage, c.psuAddr, none) := by
  cases i <;> first | rfl | cases he

/-- An exchange has one status for each of its two failures (R166). -/
theorem writeFailure_exchange {i : Instr} {x : Byte × List Byte × Nat} (he : exchangeOf i = some x) (e : Status) :
    writeFailure i e = .commandSendFailed := by
  cases i <;> first | rfl | cases he

theorem readFailure_exchange {i : Instr} {x : Byte × List Byte × Nat} (he : exchangeOf i = some x) (e : Status) :
    readFailure i e = .replyIncomplete := by
  cases i <;> first | rfl | cases he

/-- An accepted exchange runs. -/
theorem sending_runs {i : Instr} {s : State} (hc : i.calls = true) (hidle : s.idle) (opcode : Byte)
    (fields : List Byte) : ((s.accepted i).sending opcode fields).runs i := by
  obtain ⟨_, hd, hh, _⟩ := hidle
  exact ⟨rfl, latchOf_instr i (calls_channel i hc), hh, hd⟩

/-- The settle delay has returned, and the exchange is in its reply phase (R154). -/
def State.settled (early : List Byte) (s : State) : State :=
  (s.afterCall (.delay s.cfg.settleDelay) (s.world.rxIn ++ early)).psPhase .recv

/-- The step of the settle delay: the read sequence of the reply begins. -/
theorem exec_settle_exchange {i : Instr} {opcode : Byte} {fields : List Byte} {c : Nat} {early : List Byte}
    {later : List EnvReply} {s : State} (he : exchangeOf i = some (opcode, fields, c)) (hrun : s.runs i)
    (hfit : s.LengthsFit) (h1 : s.u1.phase = .idle) (h2 : s.u2.phase = .idle) (h3 : s.u3.phase = .settle)
    (henv : s.world.env = .returns early :: later) :
    exec i s = .next ((s.settled early).startReadSeq s.cfg.psuPage s.cfg.psuAddr none c (readEnd i)) := by
  rw [exec_settle i s early (exchange_calls he) hrun (inBounds_of_lengthsFit hfit h2) h1 h3 (reply_cons henv)]
  obtain ⟨_, hl, _⟩ := hrun
  exact congrArg _ (settledOf_exchange (s := s.afterCall _ _) he hl)

/-- The packet of the exchange that `i` began in `s` is sent, its responses being `ws`, and the settle delay is over:
in `y` the read sequence of the reply begins. -/
structure ReplyNext (i : Instr) (opcode : Byte) (fields : List Byte) (ws : List (List Byte)) (later : List EnvReply)
    (s y : State) : Prop where
  runs : y.runs i
  cfg : y.cfg = s.cfg
  txbuf : y.u1.txbuf.wf = true
  fc : y.u1.phase = .idle
  sqbuf : y.u2.buf.wf = true
  u3 : y.u3 = { ((s.accepted i).sending opcode fields).u3 with phase := .recv }
  world : y.world = (s.accepted i).world.after
    (writeSeqEvents s.cfg s.cfg.psuPage s.cfg.psuAddr s.cfg.psuReg (buildPacket opcode fields) ws ++
      [.delay s.cfg.settleDelay])
    (xactCalls s.cfg.flushBeforeWrite * (fields.length + 6) + 1) y.world.rxIn later

section Exchange

variable {i : Instr} {opcode : Byte} {fields : List Byte} {c : Nat} {ws : List (List Byte)} {s : State}
  {later : List EnvReply} (he : exchangeOf i = some (opcode, fields, c)) (hf : fields.length ≤ 251) (hc : c ≤ 255)
  (hidle : s.idle) (hm : s.u1.txbuf.wf = true) (hbuf : s.u2.buf.wf = true) (hpk : s.u3.pkbuf.wf = true)
  (hrx : s.cfg.flushBeforeWrite = true ∨ s.world.rxIn = []) (hgood : ∀ r ∈ ws, goodResponse 0xBC r)
include he hf hc hidle hm hbuf hpk hrx hgood

/-- The packet up to a bad response: no delay and no read follow. -/
theorem exchange_sendFails {bad : List Byte} (hlt : ws.length < fields.length + 6) (hbad4 : bad.length ≤ 4)
    (hbad : ¬ goodResponse 0xBC bad)
    (henv : s.world.env = seqReplies s.cfg.flushBeforeWrite (ws ++ [bad]) ++ later) :
    ∃ u, execRun i (xactCalls s.cfg.flushBeforeWrite * (ws.length + 1) + 2) s = .next u ∧ u.idle ∧ u.status = 6 ∧
      u.world.env = later ∧
      u.world.hist = s.world.hist ++ [.cmd (latchOf i)] ++
        writeSeqEvents s.cfg s.cfg.psuPage s.cfg.psuAddr s.cfg.psuReg (buildPacket opcode fields) (ws ++ [bad]) ++
        [.rsp ⟨.commandSendFailed, .none⟩] := by
  have hlen : (buildPacket opcode fields).length = fields.length + 6 := buildPacket_length ..
  have hrun := sending_runs (exchange_calls he) hidle opcode fields
  obtain ⟨hb, _⟩ := hidle
  obtain ⟨_, t, hcalls, hover⟩ := writeSeq_fails (s := (s.accepted i).sending opcode fields) hrun hm
    (writeSeqOf_of_exchange he s.cfg) (fun _ => by simp [State.sending]) (by omega) hrx hgood (hlt.trans_eq hlen.symm)
    hbad4 hbad henv
  rw [writeFailure_exchange he] at hcalls
  obtain ⟨u, hend, huidle, hstatus, _, hlater, _, hhist⟩ :=
    hover.delivers (by omega) (exec_exchange_accept he hf hc hb hpk) hcalls
  rw [writePlan_events (s := (s.accepted i).sending opcode fields) hbuf (by rw [List.length_append, hlen]; exact hlt)]
    at hhist
  exact ⟨u, hend, huidle, hstatus, hlater, hhist⟩

/-- The packet, byte by byte, and exactly one delay. -/
theorem exchange_replyNext {early : List Byte} (hall : ws.length = fields.length + 6)
    (henv : s.world.env = seqReplies s.cfg.flushBeforeWrite ws ++ .returns early :: later) :
    ∃ s1 y, exec i s = .next s1 ∧
      execRun i (xactCalls s.cfg.flushBeforeWrite * (fields.length + 6) + 1) s1 =
        .next (y.startReadSeq s.cfg.psuPage s.cfg.psuAddr none c (readEnd i)) ∧
      ReplyNext i opcode fields ws later s y := by
  have hcalling := exchange_calls he
  have hlen : (buildPacket opcode fields).length = fields.length + 6 := buildPacket_length ..
  have hrun := sending_runs hcalling hidle opcode fields
  obtain ⟨hb, _, _, hunits⟩ := hidle
  obtain ⟨t, hcalls, hover⟩ := writeSeq_completes (s := (s.accepted i).sending opcode fields) hrun hm
    (writeSeqOf_of_exchange he s.cfg) (fun _ => by simp [State.sending]) (by omega) hrx hgood
    (unitsIdle_iff.1 hunits).1 (hall.trans hlen.symm) henv
  rw [congrFun (writeEnd_exchange (by rw [he]; rfl)) t, hlen] at hcalls
  have hfit : (t.psPhase .settle).LengthsFit := by
    refine execRun_lengthsFit hcalling ?_ hcalls
    rw [startWriteSeq_awaiting _ _ _ _ (by simp [buildPacket]) (by omega)]
    exact lengthsFit_awaiting (isFrame_writeFrame ..) (by decide)
  have henv' : t.world.env = .returns early :: later := congrArg World.env hover.world
  have hcfg : t.cfg = s.cfg := hover.cfg
  have hsettle := exec_settle_exchange (s := t.psPhase .settle) he hover.runs hfit hover.fc
    (congrArg U2.phase hover.u2) rfl henv'
  rw [State.psPhase_cfg, hcfg] at hsettle
  refine ⟨_, (t.psPhase .settle).settled early, exec_exchange_accept he hf hc hb hpk,
    (execRun_trans hcalls).trans (execRun_one hsettle), hover.runs, hcfg, hover.txbuf, hover.fc, ?_, ?_, ?_⟩
  · change t.u2.buf.wf = true
    rw [hover.u2]
    exact Memory.wf_writeList _ hbuf _ _
  · change { t.u3 with phase := .recv } = _
    rw [hover.u3]
    rfl
  · have hworld := hover.world
    rw [writePlan_events (s := (s.accepted i).sending opcode fields) hbuf (by omega), hall] at hworld
    change t.world.after [.delay t.cfg.settleDelay] 1 (t.world.rxIn ++ early) t.world.env.tail =
      World.after _ _ (t.world.rxIn ++ early) later _
    rw [henv', hcfg, hworld, World.after_after]
    rfl

end Exchange

section Reply

variable {i : Instr} {opcode : Byte} {fields : List Byte} {c n : Nat} {ws rs : List (List Byte)} {s s1 y : State}
  {later : List EnvReply} (he : exchangeOf i = some (opcode, fields, c)) (hc : c ≤ 255)
  (hgood : ∀ r ∈ rs, goodResponse 0xAB r) (haccept : exec i s = .next s1)
  (hsent : execRun i n s1 = .next (y.startReadSeq s.cfg.psuPage s.cfg.psuAddr none c (readEnd i)))
include he hc hgood haccept hsent

/-- The reply of an exchange, all of its bytes answered well. -/
theorem ReplyNext.completes (hy : ReplyNext i opcode fields ws (seqReplies true rs ++ later) s y)
    (hreply : s.u3.rpbuf.wf = true) (hall : rs.length = c) :
    ∃ u, execRun i (n + 3 * c + 2) s = .next u ∧ u.idle ∧ u.status = 0 ∧ u.u3.pklen = y.u3.pklen ∧
      u.u3.rplen.toNat = c ∧ u.u3.rpbuf.readList 0 c = dataBytes rs ∧ u.world.env = later ∧
      u.world.calls = y.world.calls + 3 * c ∧
      u.world.hist = y.world.hist ++ readSeqEvents s.cfg s.cfg.psuPage s.cfg.psuAddr none rs ++
        [.rsp ⟨.ok, replyData i (dataBytes rs)⟩] := by
  subst hall
  obtain ⟨t, hcalls, hover⟩ := readSeq_completes (later := later) hy.runs hy.txbuf hy.sqbuf
    (readSeqOf_of_exchange he y.cfg) (fun _ => by rw [hy.u3]) hc hgood hy.fc rfl (congrArg World.env hy.world)
  rw [hy.cfg] at hcalls
  have hend := hover.delivers_reply (psuCalls_of_exchange (by rw [he]; rfl))
    (by rw [State.loadReadSeq_u3, hy.u3]; exact hreply) hc haccept ((execRun_trans hsent).trans hcalls)
  rw [readPlan_events, State.loadReadSeq_cfg, hy.cfg] at hend
  exact hend

/-- The reply of an exchange up to a bad answer. -/
theorem ReplyNext.fails {bad : List Byte}
    (hy : ReplyNext i opcode fields ws (seqReplies true (rs ++ [bad]) ++ later) s y) (hlt : rs.length < c)
    (hbad4 : bad.length ≤ 4) (hbad : ¬ goodResponse 0xAB bad) :
    ∃ u, execRun i (n + 3 * (rs.length + 1) + 2) s = .next u ∧ u.idle ∧ u.status = 7 ∧ u.world.env = later ∧
      u.world.hist = y.world.hist ++ readSeqEvents s.cfg s.cfg.psuPage s.cfg.psuAddr none (rs ++ [bad]) ++
        [.rsp ⟨.replyIncomplete, .none⟩] := by
  obtain ⟨_, t, hcalls, hover⟩ := readSeq_fails (later := later) hy.runs hy.txbuf hy.sqbuf
    (readSeqOf_of_exchange he y.cfg) (fun _ => by rw [hy.u3]) hc hgood hlt hbad4 hbad (congrArg World.env hy.world)
  rw [hy.cfg, readFailure_exchange he] at hcalls
  obtain ⟨u, hend, hidle, hstatus, _, hlater, _, hhist⟩ :=
    hover.delivers (by omega) haccept ((execRun_trans hsent).trans hcalls)
  rw [readPlan_events, State.loadReadSeq_cfg, hy.cfg] at hhist
  exact ⟨u, hend, hidle, hstatus, hlater, hhist⟩

end Reply

/-- Settles O34. -/
theorem psuExchangeRun : Obligations.PsuExchangeRun := by
  intro i opcode fields c ws rs early s later he hf hc hidle hm hbuf hpk hreply hrx hws hgoodw hrs hgood henv calls
  rw [List.append_assoc, List.append_assoc, List.singleton_append] at henv
  obtain ⟨s1, y, haccept, hsent, hy⟩ := exchange_replyNext he hf hc hidle hm hbuf hpk hrx hgoodw hws henv
  obtain ⟨u, hend, huidle, hstatus, hpklen, hrplen, hbytes, hlater, hcalls, hhist⟩ :=
    hy.completes he hc hgood haccept hsent hreply hrs
  refine ⟨u, hend, huidle, hstatus, hlater, ?_, ?_, hrplen, hbytes, ?_⟩
  · rw [hcalls, hy.world]
    exact Nat.add_assoc ..
  · rw [hpklen, hy.u3]
    exact toNat_ofNat9 _ (by omega)
  · rw [hhist, hy.world, List.append_assoc (_ ++ [Event.cmd _])]
    rfl

/-- Settles O35: the packet fails in its write sequence, or the reply in its read sequence. -/
theorem psuExchangeFails : Obligations.PsuExchangeFails := by
  intro i opcode fields c ws rs bad early s later he hf hc hidle hm hbuf hpk hreply hrx hgoodw hgood hbad4 packet flush
  refine ⟨fun hlt hbad henv => ?_, fun hws hlt hbad henv => ?_⟩
  · exact exchange_sendFails he hf hc hidle hm hbuf hpk hrx hgoodw hlt hbad4 hbad henv
  · rw [List.append_assoc, List.append_assoc, List.singleton_append] at henv
    obtain ⟨s1, y, haccept, hsent, hy⟩ := exchange_replyNext he hf hc hidle hm hbuf hpk hrx hgoodw hws henv
    obtain ⟨u, hend, huidle, hstatus, hlater, hhist⟩ := hy.fails he hc hgood haccept hsent hlt hbad4 hbad
    refine ⟨u, hend, huidle, hstatus, hlater, ?_⟩
    rw [hhist, hy.world, List.append_assoc (_ ++ [Event.cmd _])]
    rfl

end Sys2Proof.Machine

namespace Sys2Proof.Machine

/-! ## The ASIC word codec (R180 to R184) -/

/-- The byte at offset `2 k` of the pairs (R180). -/
def wordLow (w : Half) : Byte := w.setWidth 8

/-- The byte at offset `2 k + 1` of the pairs (R180). -/
def wordHigh (w : Half) : Byte := (w >>> 8).setWidth 8 &&& 0x01

theorem encodeWords_cons (w : Half) (t : List Half) :
    encodeWords (w :: t) = wordLow w :: wordHigh w :: encodeWords t := rfl

theorem byte_and_one_toNat (b : Byte) : (b &&& 0x01).toNat = b.toNat % 2 := by
  rw [BitVec.toNat_and]
  exact Nat.and_one_is_mod _

theorem wordLow_toNat (w : Half) : (wordLow w).toNat = w.toNat % 256 := BitVec.toNat_setWidth ..

theorem wordHigh_toNat (w : Half) : (wordHigh w).toNat = w.toNat / 256 % 2 := by
  rw [wordHigh, byte_and_one_toNat, BitVec.toNat_setWidth, BitVec.toNat_ushiftRight, Nat.shiftRight_eq_div_pow]
  omega

theorem pairWord_toNat (b0 b1 : Byte) : (pairWord b0 b1).toNat = b0.toNat + 256 * (b1.toNat % 2) := by
  have h0 := b0.isLt
  have hlow : (b0.setWidth 16).toNat = b0.toNat := by rw [BitVec.toNat_setWidth, Nat.mod_eq_of_lt (by omega)]
  have hhigh : ((b1 &&& 0x01).setWidth 16 <<< 8).toNat = 2 ^ 8 * (b1.toNat % 2) := by
    rw [BitVec.toNat_shiftLeft, BitVec.toNat_setWidth, byte_and_one_toNat, Nat.shiftLeft_eq]
    omega
  rw [pairWord, BitVec.toNat_or, hhigh, hlow, ← Nat.two_pow_add_eq_or_of_lt h0, Nat.add_comm]

/-- A nine-bit word is the word of its own pair. -/
theorem pairWord_wordLow_wordHigh {w : Half} (h : w.toNat ≤ 511) : pairWord (wordLow w) (wordHigh w) = w := by
  apply BitVec.eq_of_toNat_eq
  rw [pairWord_toNat, wordLow_toNat, wordHigh_toNat]
  omega

theorem wordLow_pairWord (b0 b1 : Byte) : wordLow (pairWord b0 b1) = b0 := by
  have h0 := b0.isLt
  apply BitVec.eq_of_toNat_eq
  rw [wordLow_toNat, pairWord_toNat]
  omega

theorem wordHigh_pairWord (b0 b1 : Byte) : wordHigh (pairWord b0 b1) = b1 &&& 0x01 := by
  have h0 := b0.isLt
  apply BitVec.eq_of_toNat_eq
  rw [wordHigh_toNat, pairWord_toNat, byte_and_one_toNat]
  omega

@[simp] theorem encodeWords_length (words : List Half) : (encodeWords words).length = 2 * words.length := by
  induction words with
  | nil => rfl
  | cons w t ih => simp [encodeWords_cons, ih, Nat.mul_succ]

theorem encodeWords_getD_even (words : List Half) (k : Nat) :
    (encodeWords words).getD (2 * k) 0 = wordLow (words.getD k 0) := by
  induction words generalizing k with
  | nil => rfl
  | cons w t ih =>
    cases k with
    | zero => rfl
    | succ k => exact ih k

theorem encodeWords_getD_odd (words : List Half) (k : Nat) :
    (encodeWords words).getD (2 * k + 1) 0 = wordHigh (words.getD k 0) := by
  induction words generalizing k with
  | nil =>
    rw [encodeWords, List.getD_nil, List.getD_nil]
    rfl
  | cons w t ih =>
    cases k with
    | zero => rfl
    | succ k => exact ih k

theorem pairWords_length (b : List Byte) : (pairWords b).length = b.length / 2 := by
  induction b using pairWords.induct with
  | case1 b0 b1 t ih =>
    rw [pairWords, List.length_cons, ih, List.length_cons, List.length_cons]
    omega
  | case2 b hb =>
    match b, hb with
    | [], _ => rfl
    | [_], _ => simp [pairWords]
    | b0 :: b1 :: t, hb => exact absurd rfl (hb b0 b1 t)

theorem pairWords_getD {b : List Byte} (heven : b.length % 2 = 0) (k : Nat) :
    (pairWords b).getD k 0 = pairWord (b.getD (2 * k) 0) (b.getD (2 * k + 1) 0) := by
  induction k generalizing b with
  | zero =>
    match b, heven with
    | [], _ => rfl
    | b0 :: b1 :: t, _ => rfl
  | succ k ih =>
    match b, heven with
    | [], _ =>
      rw [show pairWords [] = [] from rfl, List.getD_nil, List.getD_nil, List.getD_nil]
      rfl
    | b0 :: b1 :: t, heven => exact ih ((Nat.add_mod_right t.length 2).symm.trans heven)

theorem pairWords_encodeWords {words : List Half} (h : ∀ w ∈ words, w.toNat ≤ 511) :
    pairWords (encodeWords words) = words := by
  induction words with
  | nil => rfl
  | cons w t ih =>
    obtain ⟨hw, ht⟩ := List.forall_mem_cons.1 h
    rw [encodeWords_cons, pairWords, pairWord_wordLow_wordHigh hw, ih ht]

/-- The bytes of a list's words are the list with bits 1 to 7 of every second byte cleared. -/
theorem encodeWords_pairWords_getD {b : List Byte} (heven : b.length % 2 = 0) (k : Nat) :
    (encodeWords (pairWords b)).getD k 0 = if k % 2 = 0 then b.getD k 0 else b.getD k 0 &&& 0x01 := by
  obtain ⟨j, rfl | rfl⟩ := Nat.even_or_odd' k
  · rw [if_pos (by omega), encodeWords_getD_even, pairWords_getD heven, wordLow_pairWord]
  · rw [if_neg (by omega), encodeWords_getD_odd, pairWords_getD heven, wordHigh_pairWord]

theorem decodeWords_eq_none_iff (b : List Byte) (c : Option Half) :
    decodeWords b c = none ↔ b.length % 2 = 1 ∨ ∃ k : Half, c = some k ∧ b.length ≠ 2 * k.toNat := by
  by_cases hodd : b.length % 2 = 1
  · simp [decodeWords, hodd]
  · cases c <;> simp [decodeWords, hodd]

/-- What AW_DEC decodes is the words of an even number of bytes. -/
theorem decodeWords_some {b : List Byte} {c : Option Half} {w : List Half} (h : decodeWords b c = some w) :
    b.length % 2 = 0 ∧ w = pairWords b := by
  unfold decodeWords at h
  split at h
  · cases h
  · next hodd =>
    refine ⟨Nat.mod_two_ne_one.1 hodd, ?_⟩
    split at h
    · exact (Option.some.inj (Option.ite_none_right_eq_some.1 h).2).symm
    · exact (Option.some.inj h).symm

/-- A list that is not bad decodes to the words of its pairs (R182). -/
theorem decodeWords_eq_some {b : List Byte} {c : Option Half}
    (h : ¬ (b.length % 2 = 1 ∨ ∃ k : Half, c = some k ∧ b.length ≠ 2 * k.toNat)) :
    decodeWords b c = some (pairWords b) := by
  obtain ⟨w, hw⟩ := Option.ne_none_iff_exists'.1 (mt (decodeWords_eq_none_iff b c).1 h)
  rw [hw, (decodeWords_some hw).2]

/-- AW_DEC of AW_ENC's bytes, with no count or one that matches, is the words encoded (R184). -/
theorem decodeWords_encodeWords {words : List Half} {c : Option Half} (h : ∀ w ∈ words, w.toNat ≤ 511)
    (hc : ∀ k, c = some k → k.toNat = words.length) : decodeWords (encodeWords words) c = some words := by
  rw [decodeWords_eq_some, pairWords_encodeWords h]
  rintro (hodd | ⟨k, hk, hne⟩)
  · rw [encodeWords_length] at hodd
    omega
  · exact hne (by rw [encodeWords_length, hc k hk])

theorem exec_awEnc (words : List Half) {s : State} (hb : s.busy = false) :
    exec (.awEnc words) s =
      .next ((s.accepted (.awEnc words)).withResult ⟨.ok, .bytes (encodeWords words)⟩) :=
  exec_accept_eq rfl hb rfl

theorem exec_awDec {b : List Byte} {c : Option Half} {w : List Half} {s : State} (hb : s.busy = false)
    (hd : decodeWords b c = some w) :
    exec (.awDec b c) s = .next ((s.accepted (.awDec b c)).withResult ⟨.ok, .words w⟩) :=
  exec_accept_eq rfl hb (by rw [startOf_awDec b c rfl, hd]; rfl)

theorem exec_awDec_none {b : List Byte} {c : Option Half} {s : State} (hb : s.busy = false)
    (hd : decodeWords b c = none) :
    exec (.awDec b c) s = .next ((s.accepted (.awDec b c)).withResult ⟨.lengthMismatch, .none⟩) :=
  exec_accept_eq rfl hb (by rw [startOf_awDec b c rfl, hd]; rfl)

/-- The words of an AW_DEC that ended with `OK`, by its list and its count. -/
theorem decodeWords_of_done {b : List Byte} {c : Option Half} {w : List Half} {s t : State} (hb : s.busy = false)
    (ht : exec (.awDec b c) s = .next t) (hdone : t.done = some ⟨.ok, .words w⟩) : decodeWords b c = some w := by
  cases hd : decodeWords b c with
  | none =>
    rw [exec_awDec_none hb hd] at ht
    cases ht
    cases hdone
  | some v =>
    rw [exec_awDec hb hd] at ht
    cases ht
    cases hdone
    rfl

/-- Settles O38. -/
theorem awEnc : Obligations.AwEnc := fun words s hb =>
  ⟨encodeWords words, exec_awEnc words hb, encodeWords_length words, fun k _ =>
    ⟨by rw [encodeWords_getD_even, wordLow_toNat], by rw [encodeWords_getD_odd, wordHigh_toNat]⟩⟩

/-- Settles O39. -/
theorem awDec : Obligations.AwDec := by
  intro bytes expCount s hb i bad
  refine ⟨fun hbad => exec_awDec_none hb ((decodeWords_eq_none_iff bytes expCount).2 hbad), fun hgood => ?_⟩
  have heven : bytes.length % 2 = 0 := Nat.mod_two_ne_one.1 (not_or.1 hgood).1
  refine ⟨pairWords bytes, exec_awDec hb (decodeWords_eq_some hgood), ?_, fun k _ => ?_⟩
  · rw [pairWords_length]
    omega
  · rw [pairWords_getD heven, pairWord_toNat]

/-- Settles O40. -/
theorem asicWordLaws : Obligations.AsicWordLaws := by
  refine ⟨fun words s t l hb hnine ht hdone => ?_, fun bytes s t w hb ht hdone => ?_⟩
  · rw [exec_awEnc words hb] at ht
    cases ht
    cases hdone
    refine ⟨⟨_, exec_awDec hb (decodeWords_encodeWords hnine (by simp)), rfl⟩, fun hlt => ?_⟩
    have hcount : (BitVec.ofNat 16 words.length).toNat = words.length := by
      rw [BitVec.toNat_ofNat, Nat.mod_eq_of_lt hlt]
    exact ⟨_, exec_awDec hb (decodeWords_encodeWords hnine fun k hk => Option.some.inj hk ▸ hcount), rfl⟩
  · obtain ⟨heven, rfl⟩ := decodeWords_some (decodeWords_of_done hb ht hdone)
    refine ⟨_, _, exec_awEnc _ hb, rfl, ?_, encodeWords_pairWords_getD heven⟩
    rw [encodeWords_length, pairWords_length]
    omega

end Sys2Proof.Machine

namespace Sys2Proof.Machine

/-! ## A call that never returns (R207) -/

/-- The host's inputs are no part of what the environment answers. -/
@[simp] theorem tick_reply (s : State) : s.tick.reply = s.reply := by
  obtain ⟨host, h⟩ := tick_eq s
  rw [h]
  rfl

/-- A running command whose call never returns is stuck in it. -/
theorem exec_never {i : Instr} {s : State} (hc : i.calls = true) (hrun : s.runs i) (hinv : s.Inv)
    (hr : s.reply = .never) : exec i s = .next s.hang := by
  obtain ⟨t, ht⟩ := transport_next hinv hrun
  obtain ⟨_, ⟨_, rfl⟩ | ⟨a, ha, _⟩⟩ := State.transport_cases _ _ _ ht
  · rw [exec_runs i (calls_channel i hc) s hrun, nextOf_calls hc, ht]
  · cases hr.symm.trans ha

/-- Only a call that never returns makes the block stuck: every other step leaves `hung` as it is or clears it. -/
theorem never_of_stuck {s t : State} (hs : s.hung = false) (ht : t.hung = true) (h : step s = .next t) :
    s.reply = .never ∧ s.busy = true := by
  have kept : ¬ t.hung = s.hung := by rw [hs, ht]; decide
  rcases step_cases h with ⟨_, rfl⟩ | ⟨_, _, rfl⟩ | ⟨_, _, i, _, _, _, _, _, _, rfl⟩ | ⟨_, _, op, _, _, _, rfl⟩ |
    ⟨_, _, _, rfl⟩ | ⟨r, _, _, _, _, rfl⟩ | ⟨i, _, hb, _, _, _, _, hc⟩
  · cases ht
  · exact absurd (State.tick_hung s) kept
  · exact absurd ((sameTop_startOf i (s.tick.accept _)).hung.trans (State.tick_hung s)) kept
  · exact absurd (State.tick_hung s) kept
  · exact absurd (State.tick_hung s) kept
  · exact absurd (State.tick_hung s) kept
  · obtain ⟨_, _, _, _, _, _, _, ⟨hr, _⟩ | ⟨_, hhung, _⟩⟩ := transport_top hc
    · exact ⟨(tick_reply s).symm.trans hr, hb⟩
    · exact absurd (hhung.trans (State.tick_hung s)) kept

/-- While the block is stuck a step uses up a `wait` of the host at most. -/
theorem step_stuck {s t : State} (hr : s.noReset) (hb : s.busy = true) (hh : s.hung = true) (h : step s = .next t) :
    t = s.tick := by
  rcases step_busy_cases hr hb h with ⟨_, e⟩ | ⟨_, hh', _⟩ | ⟨_, hh', _⟩
  · exact e
  · cases hh.symm.trans hh'
  · cases hh.symm.trans hh'

/-- Settles O16: `exec_never`, `step_stuck`, `never_of_stuck`, and the reset state, which is not stuck. -/
theorem stuckCall : Obligations.StuckCall := by
  refine ⟨fun i s hc hrun hinv hr => ?_, fun s t hb hh hnr h => ?_, fun s t => never_of_stuck, fun s later hhost => ?_⟩
  · have ⟨hb, _, _, hd⟩ := hrun
    exact ⟨_, exec_never hc hrun hinv hr, rfl, hb, hd, rfl⟩
  · obtain rfl := step_stuck hnr hb hh h
    obtain ⟨host, htick⟩ := tick_eq s
    rw [htick]
  · exact ⟨_, step_reset hhost, rfl, rfl⟩

end Sys2Proof.Machine

namespace Sys2Proof.Machine

/-! ## The status of a delivered record (R190, R198) -/

/-- A step whose event is `Rsp(r)` delivers the result that was waiting. -/
theorem delivery_of_step {s t : State} {r : Rsp} (h : step s = .next t)
    (hr : t.world.hist = s.world.hist ++ [.rsp r]) :
    s.busy = true ∧ s.done = some r ∧ t.status = r.status.code := by
  by_cases hnr : s.noReset
  · rcases oneEventPerStep s t hnr h with ⟨e, _⟩ | ⟨_, _, e⟩ | ⟨_, _, e, he, hev⟩ | ⟨hb, _, r', hd, e, hst⟩
    · simp [e] at hr
    · simp [e] at hr
    · obtain rfl : e = .rsp r := by simpa [hev] using hr
      cases he
    · obtain rfl : r' = r := by simpa [e] using hr
      exact ⟨hb, hd, hst⟩
  · obtain ⟨later, hh⟩ := reset_of_not_noReset hnr
    rw [step_reset hh] at h
    cases h
    simp [State.applyReset] at hr

/-- Settles O56: the waiting result is one of the running command's by the invariant (`inv_done`). -/
theorem statusTables : Obligations.StatusTables := by
  refine ⟨rfl, fun s t r hinv h hr => ?_⟩
  obtain ⟨hb, hd, hst⟩ := delivery_of_step h hr
  obtain ⟨_, _, hres⟩ := inv_done hinv hb hd
  simp only [State.resultOk, Bool.and_eq_true, Bool.or_eq_true, decide_eq_true_eq] at hres
  obtain ⟨hmem, hdata⟩ := hres
  exact ⟨hmem, hdata.resolve_left, hst, hst ▸ code_le_of_mem_statuses hmem⟩

end Sys2Proof.Machine

namespace Sys2Proof.Machine

/-! ## A failure in a later step (R200, R201) -/

/-- A running command that comes to a result does so in a call, and the state it leaves meets the invariant. -/
theorem inv_of_result {i : Instr} {s t : State} {r : Rsp} (hi : i.channel = .cmd) (hinv : s.Inv) (hb : s.busy = true)
    (hd : s.done = none) (h : exec i s = .next t) (hr : t.done = some r) :
    t.Inv ∧ t.busy = true ∧ t.latch.instr = some i := by
  have hne : t.done ≠ s.done := by rw [hr, hd]; simp
  rcases exec_command_cases s i hi h with
    ⟨hb', _⟩ | ⟨_, _, rfl⟩ | ⟨_, _, _, rfl⟩ | ⟨r', _, _, _, hd', _⟩ | ⟨hrun, _, hc⟩
  · rw [hb] at hb'
    cases hb'
  · exact absurd rfl hne
  · exact absurd rfl hne
  · rw [hd] at hd'
    cases hd'
  · obtain ⟨_, hbusy, _, hlatch, _⟩ := transport_top hc
    have ⟨_, hl, _⟩ := hrun
    exact ⟨inv_transport hinv hrun hc, hbusy.trans hb, by rw [hlatch, hl]⟩

/-- Settles O58: the result waits in a state that meets the invariant, so its step of delivery is `exec_deliver`. -/
theorem failureIsPrecise : Obligations.FailureIsPrecise := by
  intro i s t r hi hinv hb hd h hr hne
  obtain ⟨hinv', hb', hl⟩ := inv_of_result hi hinv hb hd h hr
  obtain ⟨hh, hunits, hres⟩ := inv_done hinv' hb' hr
  obtain ⟨_, hdata⟩ := (resultOk_iff hl).1 hres
  exact ⟨hunits, hdata.resolve_left hne, hb', t.deliver r, exec_deliver hb' hl hh hr, ⟨rfl, rfl, hh, hunits⟩, rfl, rfl,
    rfl, rfl, rfl⟩

end Sys2Proof.Machine

namespace Sys2Proof.Machine

/-! ## `InvalidArgument` (R194) -/

/-- The command has no result yet, or one that is not `InvalidArgument`. -/
structure State.NotInvalid (s : State) : Prop where
  status : ∀ r, s.done = some r → r.status ≠ .invalidArgument

section NotInvalid

variable {s : State}

theorem notInvalid_of_none (h : s.done = none) : s.NotInvalid := ⟨fun r hr => by simp [h] at hr⟩

theorem notInvalid_finish {r : Rsp} (h : r.status ≠ .invalidArgument) : (s.finish r).NotInvalid :=
  ⟨fun _ hr => Option.some.inj hr ▸ h⟩

theorem notInvalid_succeed (d : Data) : (s.succeed d).NotInvalid := notInvalid_finish (by simp)

/-- The checks of a response have statuses of their own (R113). -/
theorem parseResponse_ne_invalidArgument {r : List Byte} {id : Byte} {n : Nat} {e : Status}
    (h : parseResponse r id n = .fail e) : e ≠ .invalidArgument := by
  rintro rfl
  simpa using parseResponse_statuses h

theorem notInvalid_finishWith (d : List Byte → Data) {q : XactResult}
    (hq : ∀ e, q = .fail e → e ≠ .invalidArgument) : (s.finishWith d q).NotInvalid := by
  cases q with
  | ok p => exact notInvalid_succeed _
  | fail e => exact notInvalid_finish (hq e rfl)

theorem writeFailure_ne_invalidArgument (i : Instr) {e : Status} (h : e ≠ .invalidArgument) :
    writeFailure i e ≠ .invalidArgument := by
  unfold writeFailure
  split
  · exact h
  · decide

theorem readFailure_ne_invalidArgument (i : Instr) {e : Status} (h : e ≠ .invalidArgument) :
    readFailure i e ≠ .invalidArgument := by
  unfold readFailure
  split
  · exact h
  · decide

variable (hd : s.done = none)
include hd

theorem notInvalid_writeLoop (i : Instr) (page addr reg : Byte) :
    (s.writeLoop page addr reg (writeEnd i)).NotInvalid := by
  rcases writeLoop_cases page addr reg (writeEnd i) s with ⟨_, _, _, e⟩ | e <;> rw [e]
  · exact notInvalid_of_none hd
  · rcases writeEnd_cases i s.sqIdle with e | e <;> rw [e]
    · exact notInvalid_of_none hd
    · exact notInvalid_succeed _

theorem notInvalid_readLoop (i : Instr) (page addr : Byte) (reg : Option Byte) :
    (s.readLoop page addr reg (readEnd i)).NotInvalid := by
  rcases readLoop_cases page addr reg (readEnd i) s with ⟨_, _, e⟩ | e <;> rw [e]
  · exact notInvalid_of_none hd
  · rcases readEnd_cases i (s.u2.buf.readList 0 s.u2.cnt.toNat) s.sqIdle with e | e <;> rw [e] <;>
      exact notInvalid_succeed _

theorem notInvalid_startWriteSeq (i : Instr) (page addr reg : Byte) (b : List Byte) :
    (s.startWriteSeq page addr reg b (writeEnd i)).NotInvalid :=
  notInvalid_writeLoop (s := s.loadWriteSeq b) hd ..

theorem notInvalid_startReadSeq (i : Instr) (page addr : Byte) (reg : Option Byte) (n : Nat) :
    (s.startReadSeq page addr reg n (readEnd i)).NotInvalid :=
  notInvalid_readLoop (s := s.loadReadSeq n) hd ..

/-- After a transaction. -/
theorem notInvalid_afterOf {i : Instr} (hc : i.calls = true) (hl : s.latch.instr = some i) {q : XactResult}
    (hq : ∀ e, q = .fail e → e ≠ .invalidArgument) : (afterOf (some i) q s).NotInvalid := by
  rcases afterOf_cases hc s.cfg s.u3.phase q with ⟨_, e⟩ | ⟨_, _, _, e⟩ | ⟨_, _, _, e⟩
  · rw [e]
    exact notInvalid_finishWith _ hq
  · rw [e s hl rfl rfl]
    cases q with
    | ok p => exact notInvalid_writeLoop (s := s.sqNext) hd ..
    | fail st => exact notInvalid_finish (writeFailure_ne_invalidArgument i (hq st rfl))
  · rw [e s hl rfl rfl]
    cases q with
    | ok p => exact notInvalid_readLoop (s := (s.sqStore (p.getD 0 0)).sqNext) hd ..
    | fail st => exact notInvalid_finish (readFailure_ne_invalidArgument i (hq st rfl))

/-- After the settle delay. -/
theorem notInvalid_settledOf {i : Instr} (hl : s.latch.instr = some i) : (settledOf i s).NotInvalid := by
  rcases settledOf_cases i with e | ⟨_, _, _, _, e⟩
  · rw [e]
    exact notInvalid_of_none hd
  · rw [e s hl]
    exact notInvalid_startReadSeq (s := s.psPhase .recv) hd ..

/-- Up to the first call of a command that has passed its operand checks. -/
theorem notInvalid_startOf_calls {i : Instr} (hc : i.calls = true) (hg : i.badOperand = false)
    (hl : s.latch = latchOf i) : (startOf i s).NotInvalid := by
  rcases startOf_good hc hg s.cfg with ⟨_, _, _, _, _, _, _, e⟩ | ⟨_, _, _, _, _, _, _, e⟩ |
    ⟨_, _, _, _, _, _, _, e⟩ | ⟨he, opcode, fields, _, e⟩
  · rw [e s hl rfl]
    exact notInvalid_of_none hd
  · rw [e s hl rfl]
    exact notInvalid_startWriteSeq (by exact hd) ..
  · rw [e s hl rfl]
    exact notInvalid_startReadSeq (by exact hd) ..
  · rw [e s hl, startExchange, ← writeEnd_exchange he]
    exact notInvalid_startWriteSeq (s := (s.loadPacket opcode fields).psPhase .send) hd ..

end NotInvalid

/-- An operand check of R194: `InvalidArgument` if it fails, else a start with no such result. -/
theorem checked_ite {p : Prop} [Decidable p] {bad : Bool} {s t : State} (hp : bad = decide p) (ht : t.NotInvalid) :
    (bad = true ∧ (if p then s.fail .invalidArgument else t) = s.fail .invalidArgument) ∨
    (bad = false ∧ (if p then s.fail .invalidArgument else t).NotInvalid) := by
  by_cases h : p
  · exact .inl ⟨by simp [hp, h], if_pos h⟩
  · exact .inr ⟨by simp [hp, h], by rwa [if_neg h]⟩

/-- What a pure command comes to at acceptance, by its condition of R194. -/
theorem startOf_pure_checked {i : Instr} {s : State} (hi : i.channel = .cmd) (hc : ¬ i.calls = true)
    (hl : s.latch = latchOf i) :
    (i.badOperand = true ∧ startOf i s = s.fail .invalidArgument) ∨
    (i.badOperand = false ∧ (startOf i s).NotInvalid) := by
  cases i with
  | fcBuild page command txid payload =>
    change (_ ∧ startFcBuild s = _) ∨ (_ ∧ (startFcBuild s).NotInvalid)
    rw [startFcBuild, hl]
    exact checked_ite rfl (notInvalid_succeed _)
  | psuBuild opcode fields =>
    change (_ ∧ startPsuBuild s = _) ∨ (_ ∧ (startPsuBuild s).NotInvalid)
    rw [startPsuBuild, hl]
    exact checked_ite rfl (notInvalid_succeed _)
  | fcParse b id n =>
    rw [startOf_fcParse b id n hl]
    exact checked_ite (by simp [Instr.badOperand])
      (notInvalid_finishWith _ fun _ => parseResponse_ne_invalidArgument)
  | voltEnc mv =>
    rw [startOf_voltEnc mv hl]
    have hnone : voltEncode mv = none ↔ (Instr.voltEnc mv).badOperand = true := by
      simp [voltEncode_eq_none_iff, Instr.badOperand]
    cases hv : voltEncode mv with
    | none => exact .inl ⟨hnone.1 hv, rfl⟩
    | some h => exact .inr ⟨Bool.eq_false_iff.2 fun hb => by simp [hnone.2 hb] at hv, notInvalid_succeed _⟩
  | voltDec | awEnc => exact .inr ⟨rfl, notInvalid_succeed _⟩
  | awDec b k =>
    rw [startOf_awDec b k hl]
    cases decodeWords b k with
    | some w => exact .inr ⟨rfl, notInvalid_succeed _⟩
    | none => exact .inr ⟨rfl, notInvalid_finish (by decide)⟩
  | _ => first | exact absurd rfl hc | cases hi

/-- What any command comes to at acceptance, by its condition of R194. -/
theorem startOf_checked {i : Instr} {s : State} (hi : i.channel = .cmd) (hl : s.latch = latchOf i)
    (hd : s.done = none) :
    (i.badOperand = true ∧ startOf i s = s.fail .invalidArgument) ∨
    (i.badOperand = false ∧ (startOf i s).NotInvalid) := by
  by_cases hc : i.calls = true
  · cases hg : i.badOperand with
    | true => exact .inl ⟨rfl, startOf_bad hc hg hl⟩
    | false => exact .inr ⟨rfl, notInvalid_startOf_calls hd hc hg hl⟩
  · exact startOf_pure_checked hi hc hl

/-- At acceptance the conditions of R194 are exactly those of `InvalidArgument`. -/
theorem startOf_invalidArgument_iff {i : Instr} {s : State} (hi : i.channel = .cmd) (hl : s.latch = latchOf i)
    (hd : s.done = none) :
    (startOf i s).done = some ⟨.invalidArgument, .none⟩ ↔ i.badOperand = true := by
  rcases startOf_checked hi hl hd with ⟨hbad, e⟩ | ⟨hgood, hno⟩
  · exact iff_of_true (by rw [e]; rfl) hbad
  · exact iff_of_false (fun h => hno.status _ h rfl) (Bool.eq_false_iff.1 hgood)

/-- No call of a running command has the result `InvalidArgument`. -/
theorem notInvalid_transport {i : Instr} {s t : State} (hc : i.calls = true) (hrun : s.runs i)
    (h : s.transport (afterOf (some i)) (settledOf i) = .next t) : t.NotInvalid := by
  obtain ⟨_, hl, _, hd⟩ := hrun
  obtain ⟨_, ⟨_, rfl⟩ | ⟨a, _, ⟨_, rfl⟩ | ⟨_, rfl⟩ | ⟨_, rfl⟩ | ⟨_, _, rfl⟩⟩⟩ := State.transport_cases _ _ _ h
  · exact notInvalid_of_none hd
  · exact notInvalid_of_none hd
  · exact notInvalid_of_none hd
  · exact notInvalid_afterOf (s := (s.answered a).recvStep) hd hc hl fun _ => parseResponse_ne_invalidArgument
  · exact notInvalid_settledOf (s := (s.answered a).delayStep) hd hl

/-- Settles O57: acceptance (`startOf_invalidArgument_iff`), the later steps (`notInvalid_transport`) and an unlisted
code (`step_unlisted`). -/
theorem invalidArgumentExactly : Obligations.InvalidArgumentExactly := by
  refine ⟨fun i s t hi ⟨hb, hd, _⟩ h => ?_, fun i s t r hi hrun h hr => ?_, fun op bytes later s hop ⟨hb, _⟩ hhost => ?_⟩
  · rw [exec_accept i hi s hb] at h
    cases h
    exact startOf_invalidArgument_iff hi rfl hd
  · rw [exec_runs i hi s hrun, nextOf] at h
    split at h
    · next hc => exact (notInvalid_transport hc hrun h).status r hr
    · cases h
  · exact ⟨_, step_unlisted hop hb hhost, rfl⟩

end Sys2Proof.Machine

namespace Sys2Proof.Machine

/-! ## Reset and the idle block (R30, R31, R220) -/

/-- What stands outside the block has no part in the values of R30. -/
theorem atReset_resetWith (c : Config) (w : World) : State.AtReset { State.resetWith c with world := w } where
  busy := rfl
  status := rfl
  fcPhase := rfl
  txlen := rfl
  rxcnt := rfl
  expLen := rfl
  sqPhase := rfl
  idx := rfl
  cnt := rfl
  psPhase := rfl
  pklen := rfl
  rplen := rfl

theorem State.AtReset.unitsIdle {s : State} (h : s.AtReset) : s.unitsIdle = true :=
  unitsIdle_iff.2 ⟨h.fcPhase, h.sqPhase, h.psPhase⟩

/-- After reset no command runs, none has a result and none is stuck in a call. -/
theorem idle_resetWith (c : Config) (w : World) : State.idle { State.resetWith c with world := w } :=
  ⟨rfl, rfl, rfl, (atReset_resetWith c w).unitsIdle⟩

/-- An idle block with nothing on the port keeps its state. -/
theorem step_idle_nil {s : State} (hb : s.busy = false) (hhost : s.world.host = []) : step s = .next s := by
  have hnr : s.noReset := by simp [State.noReset, hhost]
  have hnc : ∀ bytes later, s.world.host ≠ .cmd bytes :: later := by simp [hhost]
  rw [step_idle hnr hb hnc, tick_nil hhost]

/-- A reset step takes the reset off the port and leaves the rest of the world as it was. -/
theorem applyReset_world {s : State} {later : List HostInput} (hhost : s.world.host = .reset :: later) :
    s.applyReset.world = { s.world with host := later } := by
  rw [State.applyReset, hhost, List.tail_cons]

/-- Settles O11: a reset step and the state after reset are both `State.resetWith`, in some world. -/
theorem resetAndIdle : Obligations.ResetAndIdle := by
  refine ⟨fun s later hhost => ?_, atReset_resetWith .nominal _, idle_resetWith .nominal _, rfl, rfl, rfl, rfl, rfl,
    fun s => step_idle_nil⟩
  exact ⟨s.applyReset, step_reset hhost, atReset_resetWith s.cfg _, idle_resetWith s.cfg _, rfl, applyReset_world hhost⟩

end Sys2Proof.Machine
